-- ==== Sys2Proof/Word.lean ====
section
/-! DEFINITION. The word types of the block: every width the spec names (00_scope.md R12, 30_encoding.md R100). -/

namespace Sys2Proof

/-- One byte of storage, of a register or of a data bus cycle (20_memory.md R83). -/
abbrev Byte := BitVec 8

/-- The `A` field of a transaction: a memory address, an I/O address or an event code (30_encoding.md R100). -/
abbrev Addr := BitVec 16

/-- The 16-bit value of a disk-bridge device transfer (20_memory.md R84). -/
abbrev Half := BitVec 16

/-- The offset `a[14:0]` inside a 32 KiB bank or CPU window (40_bank_translator.md R130). -/
abbrev Offset := BitVec 15

/-- One 27-bit transaction word `T` (30_encoding.md R100). -/
abbrev TWord := BitVec 27

end Sys2Proof
end

