-- ==== Sys2Proof/Config.lean ====
section
/-! DEFINITION. The implementation parameters of 00_scope.md R9 as one record of plain data, and the free values the spec
leaves open (`draw()`, the attached device's answers, the platform's own DUAL map) as constants without a body. -/

namespace Sys2Proof

/-- The two address-translation schemes (00_scope.md R1, R9 `SCHEME`). -/
inductive Scheme where
  | flat | dual
deriving DecidableEq, Repr

/-- Which lower-window map scheme DUAL uses: R133's default instance, or the platform's own map `Config.resolveD`
(40_bank_translator.md R143). -/
inductive DualMap where
  | standard | platform
deriving DecidableEq, Repr

/-- The sources the arbiter scans (45_interrupt_arbiter.md R351). -/
inductive Source where
  | sio
  | uart (i : Nat)
deriving DecidableEq, Repr

/-- The per-instance parameters of a UART: `UART_BASE[i]` and `UART_VECTOR[i]` (00_scope.md R9). -/
structure UartConfig where
  base : Nat
  vector : Byte
deriving DecidableEq, Repr

/-- Bytes in a bank, and in a CPU window (00_scope.md R9 `BANK_SIZE`, `WINDOW_SIZE`; fixed by the source). -/
def Config.bankSize : Nat := 32768

/-- Banks of the FLAT array: 2^`FLAT_SEL_BITS` with the source's single nibble (00_scope.md R9, R11). -/
def Config.flatBanks : Nat := 16

/-- `SIO_QDEPTH`: the receive queue depth per SIO channel (00_scope.md R9; fixed by the source). -/
def Config.sioQueueDepth : Nat := 3

/-- The default `ARB_ORDER` for `count` UARTs: SIO, then UART 0 to UART(count - 1) (00_scope.md R9). -/
def Config.sourceOrder (count : Nat) : List Source := .sio :: (List.range count).map .uart

/-- The default `ROM_IMAGE_SIZE`: ROM bank count x 32768, the banks below `FLAT_ROM_BANKS` under FLAT, the 2^k banks of
the ROM array under DUAL (00_scope.md R9). -/
def Config.romSize (scheme : Scheme) (flatRomBanks dualIdxBits : Nat) : Nat :=
  match scheme with
  | .flat => flatRomBanks * Config.bankSize
  | .dual => 2 ^ dualIdxBits * Config.bankSize

/-- The implementation parameters of 00_scope.md R9, with the spec's defaults. `SCHEME` has no default in the spec:
FLAT here is the model's DESIGN CHOICE (notes/assumptions/3.md). Ports and counts are plain numbers. -/
structure Config where
  scheme : Scheme := .flat
  flatRomBanks : Nat := 1
  flatCommon : Nat := 15
  /-- `DUAL_IDX_BITS`; `DUAL_NROM = DUAL_NRAM = 2^dualIdxBits`. -/
  dualIdxBits : Nat := 5
  dualCommon : Nat := 31
  dualMap : DualMap := .standard
  portBank : Nat := 0x78
  portWin : Nat := 0x7C
  sioBase : Nat := 0x80
  /-- One entry per UART instance: `UART_COUNT` is the length. -/
  uarts : List UartConfig := [⟨0xA0, 0xFF⟩]
  uartMsrReset : Byte := 0x30
  pulseEnabled : Bool := false
  dbBase : Nat := 0x20
  /-- `DB_SIZE`. The spec states no minimum. DESIGN CHOICE: a window below 4 ports is accepted, and a register whose offset
  lies outside it has no port (notes/assumptions/28.md). -/
  dbSize : Nat := 8
  /-- `DB_WR_BIT`. The spec states no constraint on the four positions. DESIGN CHOICE: any are accepted, and a bit in
  several roles has each of them (notes/assumptions/27.md). -/
  dbWrBit : Fin 8 := 5
  dbRdBit : Fin 8 := 6
  dbRstBit : Fin 8 := 7
  dbOfsBit : Fin 8 := 4
  tracePort : Nat := 0xFD
  /-- `ARB_ORDER`. The spec states no constraint on the list. DESIGN CHOICE: any list is accepted; a source it leaves out
  never injects, an entry for an instance that does not exist is never pending, a repeated entry changes nothing
  (notes/assumptions/21.md). -/
  arbOrder : List Source := Config.sourceOrder uarts.length
  /-- `ROM_IMAGE_SIZE`. -/
  romImageSize : Nat := Config.romSize scheme flatRomBanks dualIdxBits
  buttonResetsBank : Bool := false
  /-- `SIO_LINES`: the DCD status bit of RR0. -/
  sioDcd : Bool := true
  /-- `SIO_LINES`: the CTS status bit of RR0. -/
  sioCts : Bool := true
deriving DecidableEq, Repr

/-- The default configuration, scheme FLAT (00_scope.md R9). -/
def Config.default : Config := {}

/-- The default configuration of scheme DUAL (00_scope.md R9). -/
def Config.defaultDual : Config := { scheme := .dual }

/-- Banks in each DUAL array: 2^k for the k bits the index field keeps (00_scope.md R9, R11). -/
def Config.dualBanks (c : Config) : Nat := 2 ^ c.dualIdxBits

/-- The three numbers of the reference schedule, OPEN in the spec (00_scope.md R9; 46_events.md R392). -/
structure Schedule where
  batchCycles : Nat
  ticksPerBatch : Nat
  pulsePeriod : Nat
deriving DecidableEq, Repr

/-- What a storage byte that no entry lists reads as. DESIGN CHOICE, unsafe: the spec fixes no launch contents
(10_state.md R33); every launch contents is a listing over this one (notes/assumptions/1.md). -/
def Config.unlistedByte : Byte := 0x00

/-- `draw()` (00_scope.md R13): the n-th unconstrained byte. A free value: no body, so nothing can be proved of it
(notes/assumptions/4.md). -/
opaque Config.drawByte : Nat → Byte

/-- What the attached block device answers to `read16(sel)` when the host queued no answer. A free value
(10_state.md R54; 93_implementation_defined.md I17; notes/assumptions/5.md). -/
opaque Config.deviceRead : Nat → BitVec 4 → Half

/-- The platform's own DUAL lower-window map `resolveD` of `RB` and `WIN`: true for the RAM array, and a bank index,
which the translator keeps in range. A free function (40_bank_translator.md R143; notes/assumptions/6.md). -/
opaque Config.resolveD : Byte → Byte → Bool × Nat

end Sys2Proof
end

