-- ==== Sys2Proof/Machine/PortMap.lean ====
section
/-! DEFINITION. The port map as a list of regions and its lookup (41_port_dispatch.md R170, R171), and the check of a
configuration (00_scope.md R10, R11). -/

namespace Sys2Proof.Machine

/-- The device a region of the port map belongs to (30_encoding.md R109). -/
inductive RegionDevice where
  | bank | window | sio | uart (i : Nat) | disk | trace
deriving DecidableEq, Repr

/-- A region `(base, size, device)` of the port map (41_port_dispatch.md R170). -/
structure Region where
  base : Nat
  size : Nat
  device : RegionDevice
deriving DecidableEq, Repr

/-- The UART regions, instance `i` first: 8 ports each at `UART_BASE` (43_uart.md R260). -/
def uartRegions (i : Nat) : List UartConfig → List Region
  | [] => []
  | u :: us => ⟨u.base, 8, .uart i⟩ :: uartRegions (i + 1) us

/-- The bank-select regions: `PORT_BANK`, and `PORT_WIN` under DUAL only (41_port_dispatch.md R171). -/
def bankRegions (c : Config) : List Region :=
  match c.scheme with
  | .flat => [⟨c.portBank, 1, .bank⟩]
  | .dual => [⟨c.portBank, 1, .bank⟩, ⟨c.portWin, 1, .window⟩]

/-- The port map of a configuration (41_port_dispatch.md R170, R171). -/
def portMap (c : Config) : List Region :=
  bankRegions c ++ ⟨c.sioBase, 4, .sio⟩ :: uartRegions 0 c.uarts ++
    [⟨c.dbBase, c.dbSize, .disk⟩, ⟨c.tracePort, 1, .trace⟩]

/-- The region with `base <= p < base + size` and the register offset `o = p - base`; none for an unmapped port
(41_port_dispatch.md R170). -/
def findRegion : List Region → Nat → Option (RegionDevice × Nat)
  | [], _ => none
  | r :: rs, p => if r.base ≤ p ∧ p < r.base + r.size then some (r.device, p - r.base) else findRegion rs p

/-- The device and register offset of a port (41_port_dispatch.md R170). -/
def lookupPort (c : Config) (p : Byte) : Option (RegionDevice × Nat) := findRegion (portMap c) p.toNat

/-- A region is contiguous, a power of two in size, aligned to its size and inside the 256 ports
(41_port_dispatch.md R170; 20_memory.md R80). No region has a size of its own to meet: for a disk-bridge window below 4
ports that is a DESIGN CHOICE (notes/assumptions/28.md). -/
def regionOk (r : Region) : Bool :=
  [1, 2, 4, 8, 16, 32, 64, 128, 256].contains r.size && r.base % r.size == 0 && decide (r.base + r.size ≤ 256)

/-- Two regions share no port (00_scope.md R10). -/
def regionsApart (r q : Region) : Bool :=
  decide (r.base + r.size ≤ q.base) || decide (q.base + q.size ≤ r.base)

/-- The regions of a map are pairwise disjoint (00_scope.md R10). -/
def mapDisjoint : List Region → Bool
  | [] => true
  | r :: rs => rs.all (regionsApart r) && mapDisjoint rs

/-- The bank parameters meet 00_scope.md R11; an index field has at most the 8 bits of its register. -/
def bankParamsOk (c : Config) : Bool :=
  decide (c.flatCommon < Config.flatBanks) && decide (c.flatRomBanks ≤ Config.flatBanks) &&
    decide (c.dualCommon < c.dualBanks) && decide (c.dualIdxBits ≤ 8)

/-- Bytes of the array the ROM image is loaded into (70_reset_and_hazards.md R455). Under FLAT that is the whole array,
so an image longer than the ROM banks runs on into RAM banks: DESIGN CHOICE, the spec bounds `ROM_IMAGE_SIZE` nowhere
(notes/assumptions/22.md). -/
def romCapacity (c : Config) : Nat :=
  match c.scheme with
  | .flat => Config.flatBanks * Config.bankSize
  | .dual => c.dualBanks * Config.bankSize

/-- `ROM_IMAGE_SIZE` is a multiple of 32768 (00_scope.md R9) that its array can hold; that bound is a DESIGN CHOICE
(notes/assumptions/22.md). -/
def imageSizeOk (c : Config) : Bool :=
  c.romImageSize % Config.bankSize == 0 && decide (c.romImageSize ≤ romCapacity c)

/-- A configuration the spec has a model for; any other is refused (00_scope.md R10, R11). `ARB_ORDER` is not looked at:
DESIGN CHOICE, the spec states no constraint on it (notes/assumptions/21.md). Nor are the `DB_*_BIT` positions, which may
coincide with each other or with the address bits 2:0: DESIGN CHOICE (notes/assumptions/27.md). A `DB_SIZE` of 1 or 2 is
accepted: DESIGN CHOICE (notes/assumptions/28.md). -/
def configValid (c : Config) : Bool :=
  (portMap c).all regionOk && mapDisjoint (portMap c) && bankParamsOk c && imageSizeOk c

end Sys2Proof.Machine
end

