-- ==== Sys2Proof/Syntax.lean ====
section
/-! DEFINITION. The operations of the block: one constructor of `Instr` per mnemonic of spec/opcode_table.json
(30_encoding.md R108 to R112). Operand fields are the sub-fields the rules name; don't-care bits (R106) are no operand. -/

namespace Sys2Proof

/-- A channel of the serial controller (42_serial_fifo.md R190). -/
inductive Channel where
  | a | b
deriving DecidableEq, Repr

/-- The operations. `o` is `a[14:0]`, `d` the data byte, `c` the SIO channel, `i` the UART instance. A WR0 command row
carries `d[7:6]` as `crc` and `d[2:0]` as `ptr`; its `d[5:3]` is the row's command number. -/
inductive Instr where
  | mrdLo (o : Offset)
  | mrdHi (o : Offset)
  | mfetchLo (o : Offset)
  | mfetchHi (o : Offset)
  | mwrLo (o : Offset) (d : Byte)
  | mwrHi (o : Offset) (d : Byte)
  | outBsel (d : Byte)
  | outRb (d : Byte)
  | outWin (d : Byte)
  | inBsel
  | inRb
  | inWin
  | outTrace (d : Byte)
  | inTrace
  | inUnmapped (port : Byte)
  | outUnmapped (port : Byte) (d : Byte)
  | inSioData (c : Channel)
  | outSioData (c : Channel) (d : Byte)
  | inSioCtrl (c : Channel)
  | outSioCmd0 (c : Channel) (crc : BitVec 2) (ptr : BitVec 3)
  | outSioCmd1 (c : Channel) (crc : BitVec 2) (ptr : BitVec 3)
  | outSioCmd2 (c : Channel) (crc : BitVec 2) (ptr : BitVec 3)
  | outSioCmd3 (c : Channel) (crc : BitVec 2) (ptr : BitVec 3)
  | outSioCmd4 (c : Channel) (crc : BitVec 2) (ptr : BitVec 3)
  | outSioCmd5 (c : Channel) (crc : BitVec 2) (ptr : BitVec 3)
  | outSioCmd6 (c : Channel) (crc : BitVec 2) (ptr : BitVec 3)
  | outSioCmd7 (c : Channel) (crc : BitVec 2) (ptr : BitVec 3)
  | outSioWrn (c : Channel) (d : Byte)
  | inUartRbr (i : Nat)
  | inUartDll (i : Nat)
  | inUartIer (i : Nat)
  | inUartDlm (i : Nat)
  | inUartIir (i : Nat)
  | inUartLcr (i : Nat)
  | inUartMcr (i : Nat)
  | inUartLsr (i : Nat)
  | inUartMsr (i : Nat)
  | inUartScr (i : Nat)
  | outUartThr (i : Nat) (d : Byte)
  | outUartDll (i : Nat) (d : Byte)
  | outUartIer (i : Nat) (d : Byte)
  | outUartDlm (i : Nat) (d : Byte)
  | outUartFcr (i : Nat) (d : Byte)
  | outUartLcr (i : Nat) (d : Byte)
  | outUartMcr (i : Nat) (d : Byte)
  | outUartScr (i : Nat) (d : Byte)
  /-- One row with two encodings: `msr` false is offset 5 (LSR), true is offset 6 (MSR). -/
  | outUartLsrMsr (i : Nat) (msr : Bool) (d : Byte)
  | inDbDlo
  | inDbDhi
  | inDbCtl
  | inDbDir
  | outDbDlo (d : Byte)
  | outDbDhi (d : Byte)
  | outDbCtl (d : Byte)
  | outDbDir (d : Byte)
  | evtTick
  | evtPulse
  | evtPoll
  | evtReset
  | evtCpuReset
deriving DecidableEq, Repr

/-- Why a transaction word is no operation (30_encoding.md R105). -/
inductive Reserved where
  /-- K = 3. -/
  | kind3
  /-- K = 7. -/
  | kind7
  /-- K = 6 with an event code above 0x0004. -/
  | eventCode
  /-- K = 6 with `D` not 0. -/
  | eventData
  /-- K in 0, 1, 4 with `D` not 0. -/
  | readData
deriving DecidableEq, Repr

end Sys2Proof
end

