-- ==== Sys2Proof/WellFormed.lean ====
section
/-! DEFINITION. Which operations a word can stand for: the state conditions of the opcode table's rows
(30_encoding.md R104, R112) and the operands that must name something that exists. -/

namespace Sys2Proof

/-- What the second stage of decoding reads beside the word (30_encoding.md R104): the configuration, the register
pointers of the two SIO channels and the divisor-latch access bit of each UART. -/
structure DecodeView where
  cfg : Config
  ptrA : BitVec 3
  ptrB : BitVec 3
  dlab : List Bool
deriving DecidableEq, Repr

/-- `PTR[c]` as the decoder sees it. -/
def DecodeView.ptr (v : DecodeView) : Channel → BitVec 3
  | .a => v.ptrA
  | .b => v.ptrB

/-- `LCR[7]` of UART `i` as the decoder sees it; an instance that does not exist shows 0. -/
def DecodeView.dlabOf (v : DecodeView) (i : Nat) : Bool := (v.dlab[i]?).getD false

/-- UART instance `i` exists (00_scope.md R9 `UART_COUNT`). -/
def DecodeView.hasUart (v : DecodeView) (i : Nat) : Bool := decide (i < v.cfg.uarts.length)

/-- No region of the port map holds the port (41_port_dispatch.md R173, R174). -/
def DecodeView.unmapped (v : DecodeView) (p : Byte) : Bool := (Machine.lookupPort v.cfg p).isNone

/-- The operation is one a word can select in this view: its scheme, its register pointer, its DLAB condition, an
existing UART, an unmapped port (the `requires` entries of spec/opcode_table.json, 30_encoding.md R112). A disk-bridge
register needs a port in the window: DESIGN CHOICE for a `DB_SIZE` below 4, which leaves some without one
(notes/assumptions/28.md). -/
def Instr.wellFormed (v : DecodeView) : Instr → Bool
  | .mrdLo _ | .mrdHi _ | .mfetchLo _ | .mfetchHi _ | .mwrLo _ _ | .mwrHi _ _ => true
  | .outBsel _ | .inBsel => decide (v.cfg.scheme = .flat)
  | .outRb _ | .outWin _ | .inRb | .inWin => decide (v.cfg.scheme = .dual)
  | .outTrace _ | .inTrace => true
  | .inUnmapped p | .outUnmapped p _ => v.unmapped p
  | .inSioData _ | .outSioData _ _ | .inSioCtrl _ => true
  | .outSioCmd0 c _ _ | .outSioCmd1 c _ _ | .outSioCmd2 c _ _ | .outSioCmd3 c _ _
  | .outSioCmd4 c _ _ | .outSioCmd5 c _ _ | .outSioCmd6 c _ _ | .outSioCmd7 c _ _ => v.ptr c == 0#3
  | .outSioWrn c _ => v.ptr c != 0#3
  | .inUartRbr i | .inUartIer i | .outUartThr i _ | .outUartIer i _ => v.hasUart i && !v.dlabOf i
  | .inUartDll i | .inUartDlm i | .outUartDll i _ | .outUartDlm i _ => v.hasUart i && v.dlabOf i
  | .inUartIir i | .inUartLcr i | .inUartMcr i | .inUartLsr i | .inUartMsr i | .inUartScr i => v.hasUart i
  | .outUartFcr i _ | .outUartLcr i _ | .outUartMcr i _ | .outUartScr i _ | .outUartLsrMsr i _ _ => v.hasUart i
  | .inDbDlo => true
  | .inDbDhi => decide (2 ≤ v.cfg.dbSize)
  | .inDbCtl | .inDbDir => decide (4 ≤ v.cfg.dbSize)
  | .outDbDlo _ => true
  | .outDbDhi _ => decide (2 ≤ v.cfg.dbSize)
  | .outDbCtl _ | .outDbDir _ => decide (4 ≤ v.cfg.dbSize)
  | .evtTick | .evtPulse | .evtPoll | .evtReset | .evtCpuReset => true

end Sys2Proof
end

