-- ==== Sys2Proof/Decode.lean ====
section
/-! DEFINITION. The decoder of transaction words, total and rejecting by name (30_encoding.md R100 to R112), and after it
the encoder (R100, R113). -/

namespace Sys2Proof

/-- `T[26:24]` (30_encoding.md R100). -/
def wordKind (t : TWord) : BitVec 3 := t.extractLsb' 24 3

/-- `T[23:8]` (30_encoding.md R100). -/
def wordAddr (t : TWord) : Addr := t.extractLsb' 8 16

/-- `T[7:0]` (30_encoding.md R100). -/
def wordData (t : TWord) : Byte := t.extractLsb' 0 8

/-- The upper window is `a[15] = 1` (40_bank_translator.md R131). -/
def addrUpper (a : Addr) : Bool := a.getLsbD 15

/-- The offset `a[14:0]` (40_bank_translator.md R130). -/
def addrOffset (a : Addr) : Offset := a.extractLsb' 0 15

/-- The port `A[7:0]` of an I/O transaction; `A[15:8]` is ignored (20_memory.md R82, 41_port_dispatch.md R179). -/
def addrPort (a : Addr) : Byte := a.extractLsb' 0 8

/-- The channel of an SIO register offset: `o[1]` (42_serial_fifo.md R190). -/
def sioChannel (o : Nat) : Channel := if o.testBit 1 then .b else .a

/-- An SIO register offset names a data port: `o[0]` (42_serial_fifo.md R190). -/
def sioIsData (o : Nat) : Bool := o.testBit 0

/-- The WR0 byte `d` with `d[7:6] = crc`, `d[5:3] = cmd`, `d[2:0] = ptr` (10_state.md R41). -/
def wr0Byte (crc : BitVec 2) (cmd : BitVec 3) (ptr : BitVec 3) : Byte := crc ++ cmd ++ ptr

/-- The row of a WR0 write by its command number `d[5:3]` (30_encoding.md R110, 42_serial_fifo.md R208). -/
def decodeWr0 (c : Channel) (d : Byte) : Instr :=
  let crc := d.extractLsb' 6 2
  let ptr := d.extractLsb' 0 3
  match d.extractLsb' 3 3 with
  | 0#3 => .outSioCmd0 c crc ptr
  | 1#3 => .outSioCmd1 c crc ptr
  | 2#3 => .outSioCmd2 c crc ptr
  | 3#3 => .outSioCmd3 c crc ptr
  | 4#3 => .outSioCmd4 c crc ptr
  | 5#3 => .outSioCmd5 c crc ptr
  | 6#3 => .outSioCmd6 c crc ptr
  | _ => .outSioCmd7 c crc ptr

/-- The register a UART read reaches, by offset and DLAB (43_uart.md R260). -/
def decodeUartIn (i : Nat) (dlab : Bool) (o : Nat) : Instr :=
  match BitVec.ofNat 3 o with
  | 0#3 => if dlab then .inUartDll i else .inUartRbr i
  | 1#3 => if dlab then .inUartDlm i else .inUartIer i
  | 2#3 => .inUartIir i
  | 3#3 => .inUartLcr i
  | 4#3 => .inUartMcr i
  | 5#3 => .inUartLsr i
  | 6#3 => .inUartMsr i
  | _ => .inUartScr i

/-- The register a UART write reaches, by offset and DLAB (43_uart.md R260). -/
def decodeUartOut (i : Nat) (dlab : Bool) (o : Nat) (d : Byte) : Instr :=
  match BitVec.ofNat 3 o with
  | 0#3 => if dlab then .outUartDll i d else .outUartThr i d
  | 1#3 => if dlab then .outUartDlm i d else .outUartIer i d
  | 2#3 => .outUartFcr i d
  | 3#3 => .outUartLcr i d
  | 4#3 => .outUartMcr i d
  | 5#3 => .outUartLsrMsr i false d
  | 6#3 => .outUartLsrMsr i true d
  | _ => .outUartScr i d

/-- The disk-bridge register a read reaches: `o[1:0]`, higher bits ignored (44_disk_bridge.md R320). -/
def decodeDiskIn (o : Nat) : Instr :=
  match BitVec.ofNat 2 o with
  | 0#2 => .inDbDlo
  | 1#2 => .inDbDhi
  | 2#2 => .inDbCtl
  | _ => .inDbDir

/-- The disk-bridge register a write reaches: `o[1:0]`, higher bits ignored (44_disk_bridge.md R320). -/
def decodeDiskOut (o : Nat) (d : Byte) : Instr :=
  match BitVec.ofNat 2 o with
  | 0#2 => .outDbDlo d
  | 1#2 => .outDbDhi d
  | 2#2 => .outDbCtl d
  | _ => .outDbDir d

/-- Stage 2 for an I/O read (30_encoding.md R104, R109). -/
def decodeIn (v : DecodeView) (p : Byte) : Instr :=
  match Machine.lookupPort v.cfg p with
  | none => .inUnmapped p
  | some (.bank, _) => match v.cfg.scheme with
    | .flat => .inBsel
    | .dual => .inRb
  | some (.window, _) => .inWin
  | some (.sio, o) => if sioIsData o then .inSioData (sioChannel o) else .inSioCtrl (sioChannel o)
  | some (.uart i, o) => decodeUartIn i (v.dlabOf i) o
  | some (.disk, o) => decodeDiskIn o
  | some (.trace, _) => .inTrace

/-- Stage 2 for an I/O write (30_encoding.md R104, R109; 42_serial_fifo.md R208, R209). -/
def decodeOut (v : DecodeView) (p d : Byte) : Instr :=
  match Machine.lookupPort v.cfg p with
  | none => .outUnmapped p d
  | some (.bank, _) => match v.cfg.scheme with
    | .flat => .outBsel d
    | .dual => .outRb d
  | some (.window, _) => .outWin d
  | some (.sio, o) =>
    if sioIsData o then .outSioData (sioChannel o) d
    else if v.ptr (sioChannel o) = 0#3 then decodeWr0 (sioChannel o) d
    else .outSioWrn (sioChannel o) d
  | some (.uart i, o) => decodeUartOut i (v.dlabOf i) o d
  | some (.disk, o) => decodeDiskOut o d
  | some (.trace, _) => .outTrace d

/-- An event word (30_encoding.md R102, R105). -/
def decodeEvent (a : Addr) (d : Byte) : Except Reserved Instr :=
  if d ≠ 0#8 then .error .eventData
  else match a with
    | 0#16 => .ok .evtTick
    | 1#16 => .ok .evtPulse
    | 2#16 => .ok .evtPoll
    | 3#16 => .ok .evtReset
    | 4#16 => .ok .evtCpuReset
    | _ => .error .eventCode

/-- A read word must have `D = 0` (30_encoding.md R105). -/
def readWord (d : Byte) (i : Instr) : Except Reserved Instr :=
  if d = 0#8 then .ok i else .error .readData

/-- The operation a transaction word stands for in a view, or why it is none (30_encoding.md R104, R105). -/
def decode (v : DecodeView) (t : TWord) : Except Reserved Instr :=
  let a := wordAddr t
  let d := wordData t
  match wordKind t with
  | 0#3 => readWord d (if addrUpper a then .mrdHi (addrOffset a) else .mrdLo (addrOffset a))
  | 1#3 => readWord d (if addrUpper a then .mfetchHi (addrOffset a) else .mfetchLo (addrOffset a))
  | 2#3 => .ok (if addrUpper a then .mwrHi (addrOffset a) d else .mwrLo (addrOffset a) d)
  | 3#3 => .error .kind3
  | 4#3 => readWord d (decodeIn v (addrPort a))
  | 5#3 => .ok (decodeOut v (addrPort a) d)
  | 6#3 => decodeEvent a d
  | _ => .error .kind7

/-- The view right after power-on under the default configuration: pointers and DLAB bits 0 (10_state.md R38, R43). -/
def resetView : DecodeView := ⟨Config.default, 0#3, 0#3, [false]⟩

/-- The instruction the decoder reads from a table word, in the view right after reset. The table's words have 27 bits;
a number with a higher bit set is no word (30_encoding.md R107). -/
def decodeTableWord (_nbits w : Nat) : Option Instr :=
  match w / 134217728, decode resetView (BitVec.ofNat 27 w) with
  | 0, .ok i => some i
  | _, _ => none

/-! The encoder. -/

/-- `T = K << 24 | A << 8 | D` (30_encoding.md R100). -/
def packWord (k : BitVec 3) (a : Addr) (d : Byte) : TWord := k ++ a ++ d

/-- A memory address from its window bit and its offset (40_bank_translator.md R131). -/
def windowAddr (upper : Bool) (o : Offset) : Addr := BitVec.ofBool upper ++ o

/-- `IN p` (30_encoding.md R113), the ignored `A[15:8]` at 0. -/
def inWord (p : Nat) : TWord := packWord 4#3 (BitVec.ofNat 16 p) 0#8

/-- `OUT p, d` (30_encoding.md R113), the ignored `A[15:8]` at 0. -/
def outWord (p : Nat) (d : Byte) : TWord := packWord 5#3 (BitVec.ofNat 16 p) d

/-- An event word (30_encoding.md R102, R113). -/
def eventWord (code : Addr) : TWord := packWord 6#3 code 0#8

/-- The control port of a channel: `SIO_BASE + 2*c` (42_serial_fifo.md R207). -/
def sioCtrlPort (cfg : Config) : Channel → Nat
  | .a => cfg.sioBase
  | .b => cfg.sioBase + 2

/-- The data port of a channel: `SIO_BASE + 2*c + 1` (42_serial_fifo.md R201). -/
def sioDataPort (cfg : Config) : Channel → Nat
  | .a => cfg.sioBase + 1
  | .b => cfg.sioBase + 3

/-- The port of register offset `o` of UART `i` (43_uart.md R260). -/
def uartPort (cfg : Config) (i o : Nat) : Nat :=
  match cfg.uarts[i]? with
  | some u => u.base + o
  | none => o

/-- The word of a WR0 command write (42_serial_fifo.md R208). -/
def wr0Word (cfg : Config) (c : Channel) (crc : BitVec 2) (cmd ptr : BitVec 3) : TWord :=
  outWord (sioCtrlPort cfg c) (wr0Byte crc cmd ptr)

/-- The word of an operation under a configuration (30_encoding.md R100, R109, R113). -/
def encode (cfg : Config) : Instr → TWord
  | .mrdLo o => packWord 0#3 (windowAddr false o) 0#8
  | .mrdHi o => packWord 0#3 (windowAddr true o) 0#8
  | .mfetchLo o => packWord 1#3 (windowAddr false o) 0#8
  | .mfetchHi o => packWord 1#3 (windowAddr true o) 0#8
  | .mwrLo o d => packWord 2#3 (windowAddr false o) d
  | .mwrHi o d => packWord 2#3 (windowAddr true o) d
  | .outBsel d => outWord cfg.portBank d
  | .outRb d => outWord cfg.portBank d
  | .outWin d => outWord cfg.portWin d
  | .inBsel => inWord cfg.portBank
  | .inRb => inWord cfg.portBank
  | .inWin => inWord cfg.portWin
  | .outTrace d => outWord cfg.tracePort d
  | .inTrace => inWord cfg.tracePort
  | .inUnmapped p => inWord p.toNat
  | .outUnmapped p d => outWord p.toNat d
  | .inSioData c => inWord (sioDataPort cfg c)
  | .outSioData c d => outWord (sioDataPort cfg c) d
  | .inSioCtrl c => inWord (sioCtrlPort cfg c)
  | .outSioCmd0 c crc ptr => wr0Word cfg c crc 0#3 ptr
  | .outSioCmd1 c crc ptr => wr0Word cfg c crc 1#3 ptr
  | .outSioCmd2 c crc ptr => wr0Word cfg c crc 2#3 ptr
  | .outSioCmd3 c crc ptr => wr0Word cfg c crc 3#3 ptr
  | .outSioCmd4 c crc ptr => wr0Word cfg c crc 4#3 ptr
  | .outSioCmd5 c crc ptr => wr0Word cfg c crc 5#3 ptr
  | .outSioCmd6 c crc ptr => wr0Word cfg c crc 6#3 ptr
  | .outSioCmd7 c crc ptr => wr0Word cfg c crc 7#3 ptr
  | .outSioWrn c d => outWord (sioCtrlPort cfg c) d
  | .inUartRbr i => inWord (uartPort cfg i 0)
  | .inUartDll i => inWord (uartPort cfg i 0)
  | .inUartIer i => inWord (uartPort cfg i 1)
  | .inUartDlm i => inWord (uartPort cfg i 1)
  | .inUartIir i => inWord (uartPort cfg i 2)
  | .inUartLcr i => inWord (uartPort cfg i 3)
  | .inUartMcr i => inWord (uartPort cfg i 4)
  | .inUartLsr i => inWord (uartPort cfg i 5)
  | .inUartMsr i => inWord (uartPort cfg i 6)
  | .inUartScr i => inWord (uartPort cfg i 7)
  | .outUartThr i d => outWord (uartPort cfg i 0) d
  | .outUartDll i d => outWord (uartPort cfg i 0) d
  | .outUartIer i d => outWord (uartPort cfg i 1) d
  | .outUartDlm i d => outWord (uartPort cfg i 1) d
  | .outUartFcr i d => outWord (uartPort cfg i 2) d
  | .outUartLcr i d => outWord (uartPort cfg i 3) d
  | .outUartMcr i d => outWord (uartPort cfg i 4) d
  | .outUartScr i d => outWord (uartPort cfg i 7) d
  | .outUartLsrMsr i msr d => outWord (uartPort cfg i (if msr then 6 else 5)) d
  | .inDbDlo => inWord cfg.dbBase
  | .inDbDhi => inWord (cfg.dbBase + 1)
  | .inDbCtl => inWord (cfg.dbBase + 2)
  | .inDbDir => inWord (cfg.dbBase + 3)
  | .outDbDlo d => outWord cfg.dbBase d
  | .outDbDhi d => outWord (cfg.dbBase + 1) d
  | .outDbCtl d => outWord (cfg.dbBase + 2) d
  | .outDbDir d => outWord (cfg.dbBase + 3) d
  | .evtTick => eventWord 0x0000#16
  | .evtPulse => eventWord 0x0001#16
  | .evtPoll => eventWord 0x0002#16
  | .evtReset => eventWord 0x0003#16
  | .evtCpuReset => eventWord 0x0004#16

end Sys2Proof
end

