-- ==== Sys2Proof/Machine/State.lean ====
section
/-! DEFINITION. The state of the block as plain data (10_state.md R31 to R55), the host side it reads (R53, R54), the
pending inputs of its agents (00_scope.md R8), the reasons a step can stop, and the state after reset
(70_reset_and_hazards.md R450, R451). -/

namespace Sys2Proof.Machine

/-- Storage contents: pairs of a byte offset in the array and its byte, in the canonical form of `Memory.wf`. -/
abbrev Memory := List Host.Cell

/-- The storage arrays (00_scope.md R13; 10_state.md R31, R32). -/
inductive StoreArray where
  | flat | rom | ram
deriving DecidableEq, Repr

/-- A storage byte `(s, b, o)`: array, bank index, offset (40_bank_translator.md R130). -/
structure Loc where
  arr : StoreArray
  bank : Nat
  off : Offset
deriving DecidableEq, Repr

/-- The state of one SIO channel (10_state.md R38). `pendRxa` and `pendErr` are the two bits of `PEND[c]`. -/
structure SioChannel where
  wr : Vector Byte 8
  ptr : BitVec 3
  q : List Byte
  ovr : Bool
  pendRxa : Bool
  pendErr : Bool
  arm : Bool
deriving DecidableEq, Repr

/-- The two conditions an SIO channel can raise (10_state.md R38). -/
inductive SioCond where
  | rxa | err
deriving DecidableEq, Repr

/-- The registers of one UART (10_state.md R42). The three `pend` bits are `UPEND`. -/
structure Uart where
  rbr : Byte
  ier : Byte
  fcr : Byte
  lcr : Byte
  mcr : Byte
  lsr : Byte
  msr : Byte
  scr : Byte
  dll : Byte
  dlm : Byte
  pendRx : Bool
  pendThre : Bool
  pendMs : Bool
deriving DecidableEq, Repr

/-- The three interrupt sources of a UART (43_uart.md R280). -/
inductive UartSource where
  | rx | thre | ms
deriving DecidableEq, Repr

/-- The registers of the disk bridge (10_state.md R46). -/
structure DiskBridge where
  dlo : Byte
  dhi : Byte
  ctl : Byte
  dir : Byte
  prev : Byte
deriving DecidableEq, Repr

/-- The state of the RETI detector (10_state.md R50). -/
inductive Sniff where
  | idle | afterEd | afterCb | afterIxiy
deriving DecidableEq, Repr

/-- The host side of one serial channel (10_state.md R53): whether a line is bound, the input bytes the host offers in
order, its output readiness, whether its readiness check fails (60_exceptions.md R412), and the bytes it accepted. -/
structure HostLine where
  bound : Bool
  rx : List Byte
  txReady : Bool
  failed : Bool
  tx : List Byte
deriving DecidableEq, Repr

/-- The host side of the disk bridge (10_state.md R54): whether a device is attached, and the answers its next
`read16` calls give, in order. -/
structure BlockDevice where
  attached : Bool
  answers : List Half
deriving DecidableEq, Repr

/-- UART instance `i` with the host line bound to it (10_state.md R42, R53). -/
structure UartUnit where
  uart : Uart
  line : HostLine
deriving DecidableEq, Repr

/-- The serial channels that reach a host line (10_state.md R53). -/
inductive LineId where
  | sio (c : Channel)
  | uart (i : Nat)
deriving DecidableEq, Repr

/-- The output events of the block (00_scope.md R13; 70_reset_and_hazards.md R450), with the device reads of R329
recorded in their place among them. -/
inductive Event where
  | inject (vector : Byte)
  | reti
  | cpuReset
  | txByte (line : LineId) (b : Byte)
  | devReset
  | devWrite16 (sel : BitVec 4) (v : Half)
  | devRead16 (sel : BitVec 4) (v : Half)
deriving DecidableEq, Repr

/-- What the host agent does between two steps of the block (00_scope.md R8; 10_state.md R53, R54). -/
inductive HostAction where
  /-- The host offers one more input byte on a line. -/
  | offer (line : LineId) (b : Byte)
  /-- The host's output readiness changes. -/
  | ready (line : LineId) (on : Bool)
  /-- A host line is bound to the channel, or taken from it. -/
  | bind (line : LineId) (on : Bool)
  /-- The host's readiness check of the line starts to fail, or works again. -/
  | fail (line : LineId) (on : Bool)
  /-- A block device is attached to the disk bridge, or detached. -/
  | attach (on : Bool)
  /-- The attached device fixes one more answer. -/
  | answer (v : Half)
deriving DecidableEq, Repr

/-- One pending input: a transaction or event word of the CPU or the environment agent, or a host action
(00_scope.md R8). -/
inductive Input where
  | word (t : TWord)
  | host (a : HostAction)
deriving DecidableEq, Repr

/-- The state. The first group is the block state of 10_state.md R55; `lineA` to `dev` are the host side; `inbox` to
`draws` are the model's own. -/
structure State where
  /-- The implementation parameters (00_scope.md R9); no operation changes them. -/
  cfg : Config
  /-- `Bank[FLAT]` (10_state.md R31). -/
  flat : Memory
  /-- `Bank[ROM]` (10_state.md R32). -/
  rom : Memory
  /-- `Bank[RAM]` (10_state.md R32). -/
  ram : Memory
  /-- `BSEL` (10_state.md R35). -/
  bsel : Byte
  /-- `RB` (10_state.md R36). -/
  rb : Byte
  /-- `WIN` (10_state.md R36). -/
  win : Byte
  /-- Channel A (10_state.md R38). -/
  sioA : SioChannel
  /-- Channel B (10_state.md R38). -/
  sioB : SioChannel
  /-- `SIO_ASSERTED` (10_state.md R39). -/
  sioAsserted : Bool
  /-- `SIO_VEC` (10_state.md R39). -/
  sioVec : Byte
  /-- The UARTs with their host lines (10_state.md R42, R53). -/
  uarts : List UartUnit
  /-- The disk bridge (10_state.md R46). -/
  db : DiskBridge
  /-- `LIVE` (10_state.md R48). -/
  live : Option Source
  /-- `SNIFF` (10_state.md R50). -/
  sniff : Sniff
  /-- `CHANGED` (10_state.md R51). -/
  changed : Bool
  /-- `TRACE_MASK` (10_state.md R52). -/
  traceMask : Byte
  /-- The host line of SIO channel A (10_state.md R53). -/
  lineA : HostLine
  /-- The host line of SIO channel B (10_state.md R53). -/
  lineB : HostLine
  /-- The block device behind the disk bridge (10_state.md R54). -/
  dev : BlockDevice
  /-- The inputs the agents have still to give, first one first. -/
  inbox : List Input
  /-- The byte the last operation returned, none where it returned nothing (30_encoding.md R101). -/
  result : Option Byte
  /-- Every output event so far, in order (00_scope.md R13). -/
  events : List Event
  /-- How many free values were drawn so far: the next draw is `Config.drawByte draws`. -/
  draws : Nat
deriving DecidableEq, Repr

/-- Why a run ends with no next state. -/
inductive Fault where
  /-- A storage access computed an offset outside its array: a model defect, never a hardware behaviour
  (60_exceptions.md R413). Raised by the memory operations; no valid configuration reaches it. Safe. -/
  | storageOutOfRange
  /-- The host's readiness check of a bound line failed: the system terminates at once (60_exceptions.md R412).
  Raised by TICK and by an RR0 read. Safe. -/
  | hostReadinessFailed
deriving DecidableEq, Repr

/-- Why there is no meaning. -/
inductive Refusal where
  /-- Raised by an arm of `exec` whose instruction has no meaning yet. Safe. -/
  | notModelled (mnemonic : String)
  /-- Raised by `step` for a word that is no operation (30_encoding.md R105). Safe. -/
  | reservedWord (why : Reserved)
  /-- Raised by `step` and by `launch` for a configuration the spec refuses (00_scope.md R10, R11). Safe. -/
  | invalidConfiguration
  /-- Raised by `launch` for a ROM image of the wrong size: no run begins (70_reset_and_hazards.md R455). Safe. -/
  | wrongImageSize
  /-- Raised by an operation that names a UART instance beyond `UART_COUNT`; no word decodes to one when the state has
  as many UARTs as its configuration. Safe. -/
  | noSuchUart
deriving DecidableEq, Repr

/-- An SIO channel right after power-on, and after a channel reset (10_state.md R38; 42_serial_fifo.md R197). -/
def SioChannel.reset : SioChannel :=
  { wr := Vector.replicate 8 0x00, ptr := 0, q := [], ovr := false, pendRxa := false, pendErr := false, arm := true }

/-- A UART right after power-on, `MSR` at `UART_MSR_RESET` (10_state.md R43). -/
def Uart.reset (msr : Byte) : Uart :=
  { rbr := 0x00, ier := 0x00, fcr := 0x00, lcr := 0x00, mcr := 0x00, lsr := 0x60, msr := msr, scr := 0x00,
    dll := 0x00, dlm := 0x00, pendRx := false, pendThre := false, pendMs := false }

/-- The disk bridge right after power-on (10_state.md R46). -/
def DiskBridge.reset : DiskBridge :=
  { dlo := 0x00, dhi := 0x00, ctl := 0x00, dir := 0x00, prev := 0x00 }

/-- A bound line with no input yet and its output ready (notes/assumptions/8.md). -/
def HostLine.quiet : HostLine := { bound := true, rx := [], txReady := true, failed := false, tx := [] }

/-- No device attached (10_state.md R54). -/
def BlockDevice.none : BlockDevice := { attached := false, answers := [] }

/-- The machine right after RESET under the default configuration with nothing listed in storage
(70_reset_and_hazards.md R450, R451). -/
def State.reset : State :=
  { cfg := Config.default, flat := [], rom := [], ram := [], bsel := 0x00, rb := 0x00, win := 0x00,
    sioA := SioChannel.reset, sioB := SioChannel.reset, sioAsserted := false, sioVec := 0x00,
    uarts := [{ uart := Uart.reset 0x30, line := HostLine.quiet }], db := DiskBridge.reset, live := none,
    sniff := .idle, changed := false, traceMask := 0x00, lineA := HostLine.quiet, lineB := HostLine.quiet,
    dev := BlockDevice.none, inbox := [], result := none, events := [.cpuReset], draws := 0 }

end Sys2Proof.Machine
end

