-- ==== Sys2Proof/Machine/Operands.lean ====
section
/-! DEFINITION. Operand forms: what the address of a memory operation and the fields of a data byte name
(40_bank_translator.md R130 to R137; 42_serial_fifo.md R190, R208; 44_disk_bridge.md R325, R327), and the view the decoder
takes of a state. -/

namespace Sys2Proof.Machine

/-- What the decoder reads of a state (30_encoding.md R104). -/
def State.view (s : State) : DecodeView :=
  ⟨s.cfg, s.sioA.ptr, s.sioB.ptr, s.uarts.map fun n => n.uart.lcr.getLsbD 7⟩

/-- Channel `c` of the serial controller (42_serial_fifo.md R190). -/
def State.chan (s : State) : Channel → SioChannel
  | .a => s.sioA
  | .b => s.sioB

/-- The host line of SIO channel `c` (10_state.md R53). -/
def State.sioLine (s : State) : Channel → HostLine
  | .a => s.lineA
  | .b => s.lineB

/-- A storage array of the state (10_state.md R31, R32). -/
def State.mem (s : State) : StoreArray → Memory
  | .flat => s.flat
  | .rom => s.rom
  | .ram => s.ram

/-- Banks of an array (00_scope.md R9, R11). -/
def bankCount (c : Config) : StoreArray → Nat
  | .flat => Config.flatBanks
  | .rom => c.dualBanks
  | .ram => c.dualBanks

/-- Bytes of an array. -/
def arraySize (c : Config) (arr : StoreArray) : Nat := bankCount c arr * Config.bankSize

/-- The byte offset `b * 0x8000 + o` in the array (10_state.md R31; 40_bank_translator.md R137). -/
def Loc.key (l : Loc) : Nat := l.bank * Config.bankSize + l.off.toNat

/-- The location lies in its array (40_bank_translator.md R137). -/
def Loc.inRange (c : Config) (l : Loc) : Bool := decide (l.bank < bankCount c l.arr)

/-- `is_rom(s, b)` (40_bank_translator.md R136). -/
def Loc.isRom (c : Config) (l : Loc) : Bool :=
  match l.arr with
  | .flat => decide (l.bank < c.flatRomBanks)
  | .rom => true
  | .ram => false

/-- The bank field of `BSEL`: its low nibble (40_bank_translator.md R133). -/
def flatBank (bsel : Byte) : Nat := (bsel.extractLsb' 0 4).toNat

/-- The bank field of `RB`: its low `DUAL_IDX_BITS` bits (40_bank_translator.md R133). -/
def dualBank (c : Config) (rb : Byte) : Nat := rb.toNat % c.dualBanks

/-- The DUAL lower-window map (40_bank_translator.md R133, R143). The platform's own map is kept in range of its array. -/
def resolveDual (c : Config) (rb win : Byte) : StoreArray × Nat :=
  match c.dualMap with
  | .standard => (if win.getLsbD 0 then .ram else .rom, dualBank c rb)
  | .platform => (if (Config.resolveD rb win).1 then .ram else .rom, (Config.resolveD rb win).2 % c.dualBanks)

/-- `translate_lower` (40_bank_translator.md R133). -/
def lowerLoc (s : State) (o : Offset) : Loc :=
  match s.cfg.scheme with
  | .flat => ⟨.flat, flatBank s.bsel, o⟩
  | .dual => ⟨(resolveDual s.cfg s.rb s.win).1, (resolveDual s.cfg s.rb s.win).2, o⟩

/-- The common bank the upper window shows (40_bank_translator.md R132). -/
def upperLoc (c : Config) (o : Offset) : Loc :=
  match c.scheme with
  | .flat => ⟨.flat, c.flatCommon, o⟩
  | .dual => ⟨.ram, c.dualCommon, o⟩

/-- The translation of a CPU address (40_bank_translator.md R130 to R133). -/
def translateAddr (s : State) (a : Addr) : Loc :=
  if addrUpper a then upperLoc s.cfg (addrOffset a) else lowerLoc s (addrOffset a)

/-- The selector of a device transfer: `new[2:0] | (new[DB_OFS_BIT] << 3)` (44_disk_bridge.md R327). -/
def diskSelector (c : Config) (d : Byte) : BitVec 4 :=
  BitVec.ofBool (d.getLsbD c.dbOfsBit.val) ++ d.extractLsb' 0 3

/-- A bit of the control byte goes from 0 to 1 (44_disk_bridge.md R326 `rise`). -/
def rises (old new : Byte) (bit : Fin 8) : Bool := ((old ^^^ new) &&& new).getLsbD bit.val

/-- The 16-bit value of the data registers, `DHI:DLO` (20_memory.md R84; 44_disk_bridge.md R328). -/
def diskData (b : DiskBridge) : Half := b.dhi ++ b.dlo

end Sys2Proof.Machine
end

