-- ==== Sys2Proof/Machine/Flags.lean ====
section
/-! DEFINITION. Every status value the block computes: the SIO's mode, vector and read registers (42_serial_fifo.md
R191, R192, R204 to R206), the UART's identification (43_uart.md R281), the host readiness answers (10_state.md R53), and
what each source shows the arbiter (45_interrupt_arbiter.md R351). The block has no flags register (10_state.md R30). -/

namespace Sys2Proof.Machine

/-- `mode(c) = WR[c][1][4:3]` (42_serial_fifo.md R191). -/
def SioChannel.mode (ch : SioChannel) : BitVec 2 := ch.wr[1].extractLsb' 3 2

/-- Receiver enable `WR[c][3][0]` (42_serial_fifo.md R191). -/
def SioChannel.rxOn (ch : SioChannel) : Bool := ch.wr[3].getLsbD 0

/-- `PEND[c] != 0` (42_serial_fifo.md R194). -/
def SioChannel.pendAny (ch : SioChannel) : Bool := ch.pendRxa || ch.pendErr

/-- The condition code in bits 3:1 of a status-affected vector (42_serial_fifo.md R192). -/
def vectorCode (a : SioChannel) : BitVec 3 :=
  if a.pendRxa then 0b110 else if a.pendErr then 0b111 else 0b011

/-- `compute_vector()` from channels A and B (42_serial_fifo.md R192). -/
def computeVector (a b : SioChannel) : Byte :=
  if b.wr[1].getLsbD 2 then (b.wr[2] &&& 0xF1) ||| ((vectorCode a).setWidth 8 <<< 1) else b.wr[2]

/-- `rx_ready()`; an unbound channel is never ready (10_state.md R53). -/
def HostLine.rxReady (l : HostLine) : Bool := l.bound && !l.rx.isEmpty

/-- `tx_ready()`; an unbound channel is always ready (10_state.md R53). -/
def HostLine.txReadyNow (l : HostLine) : Bool := !l.bound || l.txReady

/-- The readiness check of a bound line fails (60_exceptions.md R412). -/
def HostLine.broken (l : HostLine) : Bool := l.bound && l.failed

/-- One bit as a byte with that bit at position `k`. -/
def bitAt (b : Bool) (k : Nat) : Byte := (BitVec.ofBool b).setWidth 8 <<< k

/-- RR0 of channel `c` (42_serial_fifo.md R204). -/
def rr0 (s : State) (c : Channel) : Byte :=
  bitAt (!(s.chan c).q.isEmpty) 0 ||| bitAt (decide (c = .a) && s.sioAsserted) 1 |||
    bitAt (s.sioLine c).txReadyNow 2 ||| bitAt s.cfg.sioDcd 3 ||| bitAt s.cfg.sioCts 5

/-- RR1 of channel `c` (42_serial_fifo.md R205). -/
def rr1 (ch : SioChannel) : Byte := bitAt true 0 ||| bitAt ch.ovr 5

/-- RR2 of channel `c` (42_serial_fifo.md R206). -/
def rr2 (s : State) : Channel → Byte
  | .a => s.sioA.wr[2]
  | .b => computeVector s.sioA s.sioB

/-- The enable bit of a UART source (43_uart.md R280). -/
def Uart.enabled (u : Uart) : UartSource → Bool
  | .rx => u.ier.getLsbD 0
  | .thre => u.ier.getLsbD 1
  | .ms => u.ier.getLsbD 3

/-- `UPEND[src]` (43_uart.md R280). -/
def Uart.pend (u : Uart) : UartSource → Bool
  | .rx => u.pendRx
  | .thre => u.pendThre
  | .ms => u.pendMs

/-- `UPEND != 0` (43_uart.md R282). -/
def Uart.pendAny (u : Uart) : Bool := u.pendRx || u.pendThre || u.pendMs

/-- `LSR[0]`, data ready: `RBR` holds an unread byte (10_state.md R45). -/
def Uart.dataReady (u : Uart) : Bool := u.lsr.getLsbD 0

/-- `iir()` (43_uart.md R281). -/
def Uart.iir (u : Uart) : Byte :=
  if u.pendRx then 0x04 else if u.pendThre then 0x02 else if u.pendMs then 0x00 else 0x01

/-- What a source shows the arbiter: its vector while its flag is set, none otherwise
(10_state.md R49; 45_interrupt_arbiter.md R351). An instance that does not exist shows none: DESIGN CHOICE, for an
`ARB_ORDER` that names one (notes/assumptions/21.md). -/
def offer (s : State) : Source → Option Byte
  | .sio => if s.sioAsserted then some s.sioVec else none
  | .uart i =>
    match s.uarts[i]?, s.cfg.uarts[i]? with
    | some n, some k => if n.uart.pendAny then some k.vector else none
    | _, _ => none

/-- The first source of an order whose flag is set, with its vector (45_interrupt_arbiter.md R350). A source the order
leaves out is never found: DESIGN CHOICE (notes/assumptions/21.md). -/
def firstOffer (s : State) : List Source → Option (Source × Byte)
  | [] => none
  | src :: rest =>
    match offer s src with
    | some v => some (src, v)
    | none => firstOffer s rest

end Sys2Proof.Machine
end

