-- ==== Sys2Proof/Machine/Ops.lean ====
section
/-! DEFINITION. The named operations over storage, registers and events; interrupt entry as far as the block takes part
in it, `poll` (60_exceptions.md R418), and the return from it, `onReti` (R419). -/

namespace Sys2Proof.Machine

/-! Storage. -/

/-- The byte at an offset of an array. -/
def Memory.read : Memory → Nat → Byte
  | [], _ => Config.unlistedByte
  | (k, b) :: r, a => if a = k then b else Memory.read r a

/-- Store a byte, keeping the addresses rising and no entry equal to an unlisted byte. -/
def Memory.write : Memory → Nat → Byte → Memory
  | [], a, v => if v = Config.unlistedByte then [] else [(a, v)]
  | (k, b) :: r, a, v =>
    if a < k then (if v = Config.unlistedByte then (k, b) :: r else (a, v) :: (k, b) :: r)
    else if a = k then (if v = Config.unlistedByte then r else (a, v) :: r)
    else (k, b) :: Memory.write r a v

/-- Addresses strictly rise from `lo` on, stay below `size`, and no entry equals an unlisted byte. -/
def Memory.wfFrom (size lo : Nat) : Memory → Bool
  | [] => true
  | (k, b) :: r => decide (lo ≤ k) && decide (k < size) && decide (b ≠ Config.unlistedByte) && wfFrom size (k + 1) r

/-- The canonical form of an array of `size` bytes. -/
def Memory.wf (size : Nat) (m : Memory) : Bool := Memory.wfFrom size 0 m

/-- `Bank[s][b][o]` (00_scope.md R13). -/
def State.readLoc (s : State) (l : Loc) : Byte := (s.mem l.arr).read l.key

/-- Replace the contents of an array. -/
def State.setMem (s : State) (arr : StoreArray) (m : Memory) : State :=
  match arr with
  | .flat => { s with flat := m }
  | .rom => { s with rom := m }
  | .ram => { s with ram := m }

/-- `Bank[s][b][o] <- d` (40_bank_translator.md R136). -/
def State.writeLoc (s : State) (l : Loc) (d : Byte) : State :=
  s.setMem l.arr ((s.mem l.arr).write l.key d)

/-! Results, events, free values. -/

/-- The operation returns a byte (30_encoding.md R101). -/
def State.ret (s : State) (b : Byte) : State := { s with result := some b }

/-- `emit E` (00_scope.md R13). -/
def State.emit (s : State) (e : Event) : State := { s with events := s.events ++ [e] }

/-- Return `draw()`: an unconstrained byte, a fresh one each time (00_scope.md R13). -/
def State.retDraw (s : State) : State :=
  { s with result := some (Config.drawByte s.draws), draws := s.draws + 1 }

/-- `CHANGED <- true` where the rule says so (10_state.md R51). -/
def State.markChanged (s : State) (c : Bool) : State := { s with changed := s.changed || c }

/-! The serial controller. -/

/-- Replace the state of channel `c`. -/
def State.setChan (s : State) (c : Channel) (ch : SioChannel) : State :=
  match c with
  | .a => { s with sioA := ch }
  | .b => { s with sioB := ch }

/-- Replace the host line of SIO channel `c`. -/
def State.setSioLine (s : State) (c : Channel) (l : HostLine) : State :=
  match c with
  | .a => { s with lineA := l }
  | .b => { s with lineB := l }

/-- Set a bit of `PEND[c]`. -/
def SioChannel.setPend (ch : SioChannel) : SioCond → SioChannel
  | .rxa => { ch with pendRxa := true }
  | .err => { ch with pendErr := true }

/-- `SIO_ASSERTED <- true; SIO_VEC <- compute_vector()`. -/
def State.assertSio (s : State) : State :=
  { s with sioAsserted := true, sioVec := computeVector s.sioA s.sioB }

/-- `sio_raise(c, cond)` (42_serial_fifo.md R193). -/
def sioRaise (c : Channel) (cond : SioCond) (s : State) : State :=
  let s1 := s.setChan c ((s.chan c).setPend cond)
  if c = .a ∧ s.sioAsserted = false then s1.assertSio.markChanged true else s1

/-- `sio_reti()` (42_serial_fifo.md R194). -/
def sioReti (s : State) : State :=
  let s1 := { s with sioAsserted := false }
  (if s.sioA.pendAny then s1.assertSio else s1).markChanged true

/-- The queue with its newest byte replaced (42_serial_fifo.md R195: the newest byte replaces the last slot). -/
def replaceLast (q : List Byte) (b : Byte) : List Byte := q.set (Config.sioQueueDepth - 1) b

/-- `sio_push(c, b)` (42_serial_fifo.md R195). -/
def sioPush (c : Channel) (b : Byte) (s : State) : State :=
  let ch := s.chan c
  if ch.rxOn = false then s
  else if ch.q.length = Config.sioQueueDepth then
    let s1 := s.setChan c { ch with q := replaceLast ch.q b, ovr := true }
    if ch.mode = 0#2 then s1 else sioRaise c .err s1
  else
    let s1 := s.setChan c { ch with q := ch.q ++ [b] }
    if ch.mode = 0#2 then s1
    else if ch.mode = 1#2 then
      if ch.arm then sioRaise c .rxa (s.setChan c { ch with q := ch.q ++ [b], arm := false }) else s1
    else sioRaise c .rxa s1

/-- The channel after one byte was popped: RXA clears when the queue empties (42_serial_fifo.md R196). -/
def SioChannel.popped (ch : SioChannel) (rest : List Byte) : SioChannel :=
  { ch with q := rest, pendRxa := ch.pendRxa && !rest.isEmpty }

/-- `return sio_pop(c)` (42_serial_fifo.md R196). -/
def sioPop (c : Channel) (s : State) : State :=
  match (s.chan c).q with
  | [] => s.retDraw
  | b :: rest => (s.setChan c ((s.chan c).popped rest)).ret b

/-- `WR[c][n] <- d`. -/
def SioChannel.setWr (ch : SioChannel) (n : BitVec 3) (d : Byte) : SioChannel :=
  { ch with wr := ch.wr.set n.toNat d n.isLt }

/-- The start of every WR0 write: `WR[c][0] <- d` (42_serial_fifo.md R208). -/
def storeWr0 (c : Channel) (d : Byte) (s : State) : State :=
  s.setChan c ((s.chan c).setWr 0#3 d)

/-- The end of every WR0 write: `PTR[c] <- d[2:0]`, after the command (42_serial_fifo.md R208). -/
def setPtr (c : Channel) (p : BitVec 3) (s : State) : State :=
  s.setChan c { s.chan c with ptr := p }

/-- `channel_reset(c)` (42_serial_fifo.md R197). -/
def channelReset (c : Channel) (s : State) : State := s.setChan c SioChannel.reset

/-- `tx_write(b)`; an unbound channel discards it (10_state.md R53). -/
def HostLine.send (l : HostLine) (b : Byte) : HostLine :=
  if l.bound then { l with tx := l.tx ++ [b] } else l

/-- The line after `rx_read()` consumed its next byte (10_state.md R53). -/
def HostLine.consumed (l : HostLine) : HostLine := { l with rx := l.rx.tail }

/-- The SIO part of a tick for one channel: at most one host byte (42_serial_fifo.md R199). -/
def sioTickChan (c : Channel) (s : State) : State :=
  if (s.sioLine c).rxReady then
    sioPush c ((s.sioLine c).rx.headD 0x00) (s.setSioLine c (s.sioLine c).consumed)
  else s

/-- The SIO part of a tick: channel A, then B (42_serial_fifo.md R199). -/
def sioTick (s : State) : State := sioTickChan .b (sioTickChan .a s)

/-! The UARTs. -/

/-- Replace UART `i` and its line. -/
def State.setUart (s : State) (i : Nat) (n : UartUnit) : State := { s with uarts := s.uarts.set i n }

/-- Set or clear a bit of `UPEND`. -/
def Uart.setPend (u : Uart) (src : UartSource) (on : Bool) : Uart :=
  match src with
  | .rx => { u with pendRx := on }
  | .thre => { u with pendThre := on }
  | .ms => { u with pendMs := on }

/-- `uart_raise(src)`, with whether it set `CHANGED` (43_uart.md R280). -/
def uartRaise (src : UartSource) (u : Uart) : Uart × Bool :=
  if u.enabled src && !u.pend src then (u.setPend src true, true) else (u, false)

/-- The first part of a UART tick: load the holding register when it is empty and the host has a byte
(43_uart.md R283). -/
def uartLoad (n : UartUnit) : UartUnit :=
  if !n.uart.dataReady && n.line.rxReady then
    { uart := { n.uart with rbr := n.line.rx.headD 0x00, lsr := n.uart.lsr ||| 0x01 }, line := n.line.consumed }
  else n

/-- The second part of a UART tick: raise RX while the holding register is full (43_uart.md R283). -/
def uartTickRx (u : Uart) : Uart × Bool := if u.dataReady then uartRaise .rx u else (u, false)

/-- The third part of a UART tick: THRE and TEMT follow the host's output readiness (43_uart.md R283). -/
def uartTickTx (ready : Bool) (u : Uart) : Uart × Bool :=
  if ready then uartRaise .thre { u with lsr := u.lsr ||| 0x60 }
  else ({ u with lsr := u.lsr &&& ~~~0x60, pendThre := false }, true)

/-- `uart_tick(i)`, with whether it set `CHANGED` (43_uart.md R283). -/
def uartTick (n : UartUnit) : UartUnit × Bool :=
  let n1 := uartLoad n
  let r := uartTickRx n1.uart
  let t := uartTickTx n1.line.txReadyNow r.1
  ({ n1 with uart := t.1 }, r.2 || t.2)

/-- `uart_pulse(i)`, with whether it set `CHANGED` (43_uart.md R284). -/
def uartPulse (n : UartUnit) : UartUnit × Bool :=
  let r := uartRaise .ms { n.uart with msr := (n.uart.msr ^^^ 0x80) ||| 0x08 }
  ({ n with uart := r.1 }, r.2)

/-- Every UART through one event part, in index order. -/
def forUarts (f : UartUnit → UartUnit × Bool) (s : State) : State :=
  { s with uarts := s.uarts.map fun n => (f n).1, changed := s.changed || s.uarts.any fun n => (f n).2 }

/-- A UART register read: the byte returned, the registers after it, whether it sets `CHANGED`. -/
def uartIn (i : Nat) (s : State) (value : Uart → Byte) (after : Uart → Uart) (touch : Uart → Bool) :
    Host.Outcome State Fault Refusal :=
  match s.uarts[i]? with
  | none => .refused .noSuchUart
  | some n => .next (((s.setUart i { n with uart := after n.uart }).markChanged (touch n.uart)).ret (value n.uart))

/-- A UART register write: the registers after it, whether it sets `CHANGED`. -/
def uartOut (i : Nat) (s : State) (after : Uart → Uart) (touch : Bool) : Host.Outcome State Fault Refusal :=
  match s.uarts[i]? with
  | none => .refused .noSuchUart
  | some n => .next ((s.setUart i { n with uart := after n.uart }).markChanged touch)

/-! The disk bridge. -/

/-- Write transfer (44_disk_bridge.md R328). -/
def writeTransfer (sel : BitVec 4) (s : State) : State := s.emit (.devWrite16 sel (diskData s.db))

/-- The registers and the event of a read transfer that returned `v` (44_disk_bridge.md R329). -/
def latchRead (sel : BitVec 4) (v : Half) (s : State) : State :=
  { s with db := { s.db with dlo := v.extractLsb' 0 8, dhi := v.extractLsb' 8 8 } }.emit (.devRead16 sel v)

/-- Read transfer: 0xFFFF with no device, else the device's next answer, a free value where the host fixed none
(44_disk_bridge.md R329; 10_state.md R54). -/
def readTransfer (sel : BitVec 4) (s : State) : State :=
  if s.dev.attached then
    match s.dev.answers with
    | v :: rest => latchRead sel v { s with dev := { s.dev with answers := rest } }
    | [] => latchRead sel (Config.deviceRead s.draws sel) { s with draws := s.draws + 1 }
  else latchRead sel 0xFFFF s

/-- The edge processing of a control write (44_disk_bridge.md R326). -/
def controlWrite (d : Byte) (s : State) : State :=
  let old := s.db.prev
  let c := s.cfg
  let s1 := { s with db := { s.db with ctl := d, prev := d } }
  let s2 := if rises old d c.dbRstBit then s1.emit .devReset else s1
  if d.getLsbD c.dbRstBit.val then s2
  else
    let s3 := if rises old d c.dbWrBit then writeTransfer (diskSelector c d) s2 else s2
    if rises old d c.dbRdBit then readTransfer (diskSelector c d) s3 else s3

/-! Interrupt entry and return. -/

/-- `poll()`: interrupt entry as far as the block takes part (45_interrupt_arbiter.md R350; 60_exceptions.md R418). -/
def poll (s : State) : State :=
  let s1 := { s with changed := false }
  match s.live with
  | some _ => s1
  | none =>
    match firstOffer s s.cfg.arbOrder with
    | some (src, v) => { s1.emit (.inject v) with live := some src }
    | none => s1

/-- `on_reti()`: interrupt return as far as the block takes part (45_interrupt_arbiter.md R352; 60_exceptions.md R419). -/
def onReti (s : State) : State :=
  let s1 := if s.live = some .sio then sioReti s else s
  poll { s1 with live := none }

/-- `sniff_step(b)` (45_interrupt_arbiter.md R360). -/
def sniffStep (b : Byte) (s : State) : State :=
  match s.sniff with
  | .afterEd =>
    if b = 0x4D then onReti ({ s with sniff := .idle }.emit .reti) else { s with sniff := .idle }
  | .afterCb => { s with sniff := .idle }
  | .idle =>
    if b = 0xED then { s with sniff := .afterEd }
    else if b = 0xDD ∨ b = 0xFD then { s with sniff := .afterIxiy }
    else if b = 0xCB then { s with sniff := .afterCb }
    else { s with sniff := .idle }
  | .afterIxiy =>
    if b = 0xED then { s with sniff := .afterEd }
    else if b = 0xDD ∨ b = 0xFD then { s with sniff := .afterIxiy }
    else { s with sniff := .idle }

/-! Reset. -/

/-- Every register at its reset value; storage, host side, configuration, pending inputs and events stay
(70_reset_and_hazards.md R450). -/
def resetRegisters (s : State) : State :=
  { s with
    bsel := 0x00, rb := 0x00, win := 0x00, sioA := SioChannel.reset, sioB := SioChannel.reset, sioAsserted := false,
    sioVec := 0x00, uarts := s.uarts.map fun n => { n with uart := Uart.reset s.cfg.uartMsrReset },
    db := DiskBridge.reset, live := none, sniff := .idle, changed := false, traceMask := 0x00 }

/-- The bank-select registers at 0x00 (70_reset_and_hazards.md R452). -/
def resetBanks (s : State) : State := { s with bsel := 0x00, rb := 0x00, win := 0x00 }

/-! The host agent. -/

/-- A change of one host line. -/
def State.mapLine (s : State) (l : LineId) (f : HostLine → HostLine) : State :=
  match l with
  | .sio c => s.setSioLine c (f (s.sioLine c))
  | .uart i =>
    match s.uarts[i]? with
    | some n => s.setUart i { n with line := f n.line }
    | none => s

/-- A host action between two steps of the block (00_scope.md R8; 10_state.md R53, R54). That an action may stand
between any two words is a DESIGN CHOICE in each case: a line is bound or unbound during a run and keeps the bytes
offered to it while unbound (notes/assumptions/23.md); a device is attached or detached during a run and its queued
answers outlive a detach (notes/assumptions/24.md); output readiness changes between two words that are no events, so RR0
may (notes/assumptions/25.md). -/
def hostAct (a : HostAction) (s : State) : State :=
  match a with
  | .offer l b => s.mapLine l fun h => { h with rx := h.rx ++ [b] }
  | .ready l on => s.mapLine l fun h => { h with txReady := on }
  | .bind l on => s.mapLine l fun h => { h with bound := on }
  | .fail l on => s.mapLine l fun h => { h with failed := on }
  | .attach on => { s with dev := { s.dev with attached := on } }
  | .answer v => { s with dev := { s.dev with answers := s.dev.answers ++ [v] } }

end Sys2Proof.Machine
end

