-- ==== Sys2Proof/Machine/Bank.lean ====
section
/-! DEFINITION. The bank address translator: memory reads, opcode fetches, memory writes and bank-select writes
(40_bank_translator.md R134 to R139). -/

namespace Sys2Proof.Machine

/-- A memory data read at a location; a location outside its array is a model defect (40_bank_translator.md R134, R137;
60_exceptions.md R413). -/
def readAt (l : Loc) (s : State) : Host.Outcome State Fault Refusal :=
  if l.inRange s.cfg then .next (s.ret (s.readLoc l)) else .fault .storageOutOfRange

/-- An opcode fetch at a location: the byte is returned and fed to the RETI detector (40_bank_translator.md R135). -/
def fetchAt (l : Loc) (s : State) : Host.Outcome State Fault Refusal :=
  if l.inRange s.cfg then .next (sniffStep (s.readLoc l) (s.ret (s.readLoc l))) else .fault .storageOutOfRange

/-- A memory write at a location; a write to ROM is discarded (40_bank_translator.md R136). -/
def writeAt (l : Loc) (d : Byte) (s : State) : Host.Outcome State Fault Refusal :=
  if l.inRange s.cfg then .next (if l.isRom s.cfg then s else s.writeLoc l d) else .fault .storageOutOfRange

/-- MRD through the lower window (40_bank_translator.md R134). -/
def execMrdLo (o : Offset) (s : State) : Host.Outcome State Fault Refusal := readAt (lowerLoc s o) s

/-- MRD through the upper window (40_bank_translator.md R134). -/
def execMrdHi (o : Offset) (s : State) : Host.Outcome State Fault Refusal := readAt (upperLoc s.cfg o) s

/-- MFETCH through the lower window (40_bank_translator.md R135). -/
def execMfetchLo (o : Offset) (s : State) : Host.Outcome State Fault Refusal := fetchAt (lowerLoc s o) s

/-- MFETCH through the upper window (40_bank_translator.md R135). -/
def execMfetchHi (o : Offset) (s : State) : Host.Outcome State Fault Refusal := fetchAt (upperLoc s.cfg o) s

/-- MWR through the lower window (40_bank_translator.md R136). -/
def execMwrLo (o : Offset) (d : Byte) (s : State) : Host.Outcome State Fault Refusal := writeAt (lowerLoc s o) d s

/-- MWR through the upper window (40_bank_translator.md R136). -/
def execMwrHi (o : Offset) (d : Byte) (s : State) : Host.Outcome State Fault Refusal := writeAt (upperLoc s.cfg o) d s

/-- OUT PORT_BANK under FLAT (40_bank_translator.md R138). -/
def execOutBsel (d : Byte) (s : State) : Host.Outcome State Fault Refusal := .next { s with bsel := d }

/-- OUT PORT_BANK under DUAL (40_bank_translator.md R139). -/
def execOutRb (d : Byte) (s : State) : Host.Outcome State Fault Refusal := .next { s with rb := d }

/-- OUT PORT_WIN under DUAL (40_bank_translator.md R139). -/
def execOutWin (d : Byte) (s : State) : Host.Outcome State Fault Refusal := .next { s with win := d }

end Sys2Proof.Machine
end

