-- ==== Sys2Proof/Machine/Disk.lean ====
section
/-! DEFINITION. The disk bridge: register reads, register writes, and the edge-detecting control write
(44_disk_bridge.md R321 to R329). -/

namespace Sys2Proof.Machine

/-- IN DLO (44_disk_bridge.md R321). -/
def execInDbDlo (s : State) : Host.Outcome State Fault Refusal := .next (s.ret s.db.dlo)

/-- IN DHI (44_disk_bridge.md R321). -/
def execInDbDhi (s : State) : Host.Outcome State Fault Refusal := .next (s.ret s.db.dhi)

/-- IN CTL (44_disk_bridge.md R321). -/
def execInDbCtl (s : State) : Host.Outcome State Fault Refusal := .next (s.ret s.db.ctl)

/-- IN DIR (44_disk_bridge.md R321). -/
def execInDbDir (s : State) : Host.Outcome State Fault Refusal := .next (s.ret s.db.dir)

/-- OUT DLO (44_disk_bridge.md R322). -/
def execOutDbDlo (d : Byte) (s : State) : Host.Outcome State Fault Refusal :=
  .next { s with db := { s.db with dlo := d } }

/-- OUT DHI (44_disk_bridge.md R323). -/
def execOutDbDhi (d : Byte) (s : State) : Host.Outcome State Fault Refusal :=
  .next { s with db := { s.db with dhi := d } }

/-- OUT DIR (44_disk_bridge.md R324). -/
def execOutDbDir (d : Byte) (s : State) : Host.Outcome State Fault Refusal :=
  .next { s with db := { s.db with dir := d } }

/-- OUT CTL: edge detection (44_disk_bridge.md R326). -/
def execOutDbCtl (d : Byte) (s : State) : Host.Outcome State Fault Refusal := .next (controlWrite d s)

end Sys2Proof.Machine
end

