-- ==== Sys2Proof/Machine/Events.lean ====
section
/-! DEFINITION. The environment events TICK, PULSE, POLL, RESET and CPURESET (46_events.md R390, R391;
45_interrupt_arbiter.md R350; 70_reset_and_hazards.md R450, R452). -/

namespace Sys2Proof.Machine

/-- A readiness check of a bound line that a tick makes fails: SIO A, SIO B or a UART (60_exceptions.md R412). -/
def tickBroken (s : State) : Bool :=
  s.lineA.broken || s.lineB.broken || s.uarts.any fun n => n.line.broken

/-- TICK: SIO channel A, then B, then the UARTs in index order (46_events.md R390). -/
def execEvtTick (s : State) : Host.Outcome State Fault Refusal :=
  if tickBroken s then .fault .hostReadinessFailed else .next (forUarts uartTick (sioTick s))

/-- PULSE: every UART, when the feature is on (46_events.md R391). -/
def execEvtPulse (s : State) : Host.Outcome State Fault Refusal :=
  .next (if s.cfg.pulseEnabled then forUarts uartPulse s else s)

/-- POLL (45_interrupt_arbiter.md R350). -/
def execEvtPoll (s : State) : Host.Outcome State Fault Refusal := .next (poll s)

/-- RESET (70_reset_and_hazards.md R450). -/
def execEvtReset (s : State) : Host.Outcome State Fault Refusal := .next ((resetRegisters s).emit .cpuReset)

/-- CPURESET (70_reset_and_hazards.md R452). -/
def execEvtCpuReset (s : State) : Host.Outcome State Fault Refusal :=
  let s1 := { s with sniff := .idle }
  .next ((if s.cfg.buttonResetsBank then resetBanks s1 else s1).emit .cpuReset)

end Sys2Proof.Machine
end

