-- ==== Sys2Proof/Machine/PortMux.lean ====
section
/-! DEFINITION. The port multiplexer's own operations: bank-select read-back, the trace port, unmapped ports
(41_port_dispatch.md R173 to R177). -/

namespace Sys2Proof.Machine

/-- IN PORT_BANK under FLAT: any byte (41_port_dispatch.md R175). -/
def execInBsel (s : State) : Host.Outcome State Fault Refusal := .next s.retDraw

/-- IN PORT_BANK under DUAL: any byte (41_port_dispatch.md R175). -/
def execInRb (s : State) : Host.Outcome State Fault Refusal := .next s.retDraw

/-- IN PORT_WIN under DUAL: any byte (41_port_dispatch.md R175). -/
def execInWin (s : State) : Host.Outcome State Fault Refusal := .next s.retDraw

/-- OUT TRACE_PORT (41_port_dispatch.md R176). -/
def execOutTrace (d : Byte) (s : State) : Host.Outcome State Fault Refusal := .next { s with traceMask := d }

/-- IN TRACE_PORT: the port reads as unmapped (41_port_dispatch.md R177). -/
def execInTrace (s : State) : Host.Outcome State Fault Refusal := .next (s.ret 0xFF)

/-- IN of an unmapped port (41_port_dispatch.md R173). -/
def execInUnmapped (_port : Byte) (s : State) : Host.Outcome State Fault Refusal := .next (s.ret 0xFF)

/-- OUT to an unmapped port: no state changes (41_port_dispatch.md R174). -/
def execOutUnmapped (_port _d : Byte) (s : State) : Host.Outcome State Fault Refusal := .next s

end Sys2Proof.Machine
end

