-- ==== Sys2Proof/Machine/Sio.lean ====
section
/-! DEFINITION. The dual-channel serial controller: data and control ports, WR0 commands (42_serial_fifo.md R201 to
R217). -/

namespace Sys2Proof.Machine

/-- IN data (42_serial_fifo.md R201). -/
def execInSioData (c : Channel) (s : State) : Host.Outcome State Fault Refusal := .next (sioPop c s)

/-- OUT data: the byte goes to the host line (42_serial_fifo.md R203). -/
def execOutSioData (c : Channel) (d : Byte) (s : State) : Host.Outcome State Fault Refusal :=
  .next ((s.setSioLine c ((s.sioLine c).send d)).emit (.txByte (.sio c) d))

/-- IN control: RR0 to RR2 by the pointer, any byte for a pointer of 3 to 7; the pointer returns to 0. RR0 polls the host
line's readiness (42_serial_fifo.md R204 to R207; 60_exceptions.md R412). -/
def execInSioCtrl (c : Channel) (s : State) : Host.Outcome State Fault Refusal :=
  match (s.chan c).ptr with
  | 0#3 => if (s.sioLine c).broken then .fault .hostReadinessFailed else .next ((setPtr c 0#3 s).ret (rr0 s c))
  | 1#3 => .next ((setPtr c 0#3 s).ret (rr1 (s.chan c)))
  | 2#3 => .next ((setPtr c 0#3 s).ret (rr2 s c))
  | _ => .next (setPtr c 0#3 s).retDraw

/-- A WR0 write: store the byte, run the command, then load the pointer (42_serial_fifo.md R208). -/
def wr0Write (c : Channel) (crc : BitVec 2) (cmd ptr : BitVec 3) (act : State → State) (s : State) :
    Host.Outcome State Fault Refusal :=
  .next (setPtr c ptr (act (storeWr0 c (wr0Byte crc cmd ptr) s)))

/-- Command 4: `ARM[c] <- true` (42_serial_fifo.md R214). -/
def rearm (c : Channel) (s : State) : State := s.setChan c { s.chan c with arm := true }

/-- Command 6: the overrun flag and the ERR bit clear (42_serial_fifo.md R216). -/
def errorReset (c : Channel) (s : State) : State := s.setChan c { s.chan c with ovr := false, pendErr := false }

/-- Command 7: `sio_reti()` on channel A, nothing on channel B (42_serial_fifo.md R217). -/
def sioReturn (c : Channel) (s : State) : State :=
  match c with
  | .a => sioReti s
  | .b => s

/-- WR0 command 0, null (42_serial_fifo.md R208, R210). -/
def execOutSioCmd0 (c : Channel) (crc : BitVec 2) (ptr : BitVec 3) (s : State) : Host.Outcome State Fault Refusal :=
  wr0Write c crc 0#3 ptr (fun s => s) s

/-- WR0 command 1, send abort: no effect of its own (42_serial_fifo.md R208, R211). -/
def execOutSioCmd1 (c : Channel) (crc : BitVec 2) (ptr : BitVec 3) (s : State) : Host.Outcome State Fault Refusal :=
  wr0Write c crc 1#3 ptr (fun s => s) s

/-- WR0 command 2, reset external/status interrupts: no effect of its own (42_serial_fifo.md R208, R212). -/
def execOutSioCmd2 (c : Channel) (crc : BitVec 2) (ptr : BitVec 3) (s : State) : Host.Outcome State Fault Refusal :=
  wr0Write c crc 2#3 ptr (fun s => s) s

/-- WR0 command 3, channel reset (42_serial_fifo.md R208, R213). -/
def execOutSioCmd3 (c : Channel) (crc : BitVec 2) (ptr : BitVec 3) (s : State) : Host.Outcome State Fault Refusal :=
  wr0Write c crc 3#3 ptr (channelReset c) s

/-- WR0 command 4, enable interrupt on next receive character (42_serial_fifo.md R208, R214). -/
def execOutSioCmd4 (c : Channel) (crc : BitVec 2) (ptr : BitVec 3) (s : State) : Host.Outcome State Fault Refusal :=
  wr0Write c crc 4#3 ptr (rearm c) s

/-- WR0 command 5, reset transmit interrupt pending: no effect of its own (42_serial_fifo.md R208, R215). -/
def execOutSioCmd5 (c : Channel) (crc : BitVec 2) (ptr : BitVec 3) (s : State) : Host.Outcome State Fault Refusal :=
  wr0Write c crc 5#3 ptr (fun s => s) s

/-- WR0 command 6, error reset (42_serial_fifo.md R208, R216). -/
def execOutSioCmd6 (c : Channel) (crc : BitVec 2) (ptr : BitVec 3) (s : State) : Host.Outcome State Fault Refusal :=
  wr0Write c crc 6#3 ptr (errorReset c) s

/-- WR0 command 7, return from interrupt (42_serial_fifo.md R208, R217). -/
def execOutSioCmd7 (c : Channel) (crc : BitVec 2) (ptr : BitVec 3) (s : State) : Host.Outcome State Fault Refusal :=
  wr0Write c crc 7#3 ptr (sioReturn c) s

/-- The channel after a write to WR1 to WR7: the register, the arm flag on WR1, the pointer at 0
(42_serial_fifo.md R209). -/
def SioChannel.wroteReg (ch : SioChannel) (d : Byte) : SioChannel :=
  { ch.setWr ch.ptr d with arm := ch.arm || ch.ptr == 1#3, ptr := 0 }

/-- OUT control with the pointer at a register (42_serial_fifo.md R209). -/
def execOutSioWrn (c : Channel) (d : Byte) (s : State) : Host.Outcome State Fault Refusal :=
  .next (s.setChan c ((s.chan c).wroteReg d))

end Sys2Proof.Machine
end

