-- ==== Sys2Proof/Machine/UartPort.lean ====
section
/-! DEFINITION. The discrete UART: every register read and write (43_uart.md R261 to R279). -/

namespace Sys2Proof.Machine

/-- IN RBR: the holding register empties and RX clears (43_uart.md R262). -/
def execInUartRbr (i : Nat) (s : State) : Host.Outcome State Fault Refusal :=
  uartIn i s (fun u => u.rbr) (fun u => { u with lsr := u.lsr &&& ~~~0x01, pendRx := false }) (fun _ => true)

/-- IN DLL (43_uart.md R263). -/
def execInUartDll (i : Nat) (s : State) : Host.Outcome State Fault Refusal :=
  uartIn i s (fun u => u.dll) (fun u => u) (fun _ => false)

/-- IN IER (43_uart.md R264). -/
def execInUartIer (i : Nat) (s : State) : Host.Outcome State Fault Refusal :=
  uartIn i s (fun u => u.ier) (fun u => u) (fun _ => false)

/-- IN DLM (43_uart.md R266). -/
def execInUartDlm (i : Nat) (s : State) : Host.Outcome State Fault Refusal :=
  uartIn i s (fun u => u.dlm) (fun u => u) (fun _ => false)

/-- IN IIR: a reported THRE is acknowledged (43_uart.md R265). -/
def execInUartIir (i : Nat) (s : State) : Host.Outcome State Fault Refusal :=
  uartIn i s (fun u => u.iir) (fun u => if u.iir = 0x02 then { u with pendThre := false } else u) (fun u => u.iir == 0x02)

/-- IN LCR (43_uart.md R267). -/
def execInUartLcr (i : Nat) (s : State) : Host.Outcome State Fault Refusal :=
  uartIn i s (fun u => u.lcr) (fun u => u) (fun _ => false)

/-- IN MCR (43_uart.md R261). -/
def execInUartMcr (i : Nat) (s : State) : Host.Outcome State Fault Refusal :=
  uartIn i s (fun u => u.mcr) (fun u => u) (fun _ => false)

/-- IN LSR: bits 4:1 clear (43_uart.md R268). -/
def execInUartLsr (i : Nat) (s : State) : Host.Outcome State Fault Refusal :=
  uartIn i s (fun u => u.lsr) (fun u => { u with lsr := u.lsr &&& ~~~0x1E }) (fun _ => false)

/-- IN MSR: the delta bits and MS clear (43_uart.md R269). -/
def execInUartMsr (i : Nat) (s : State) : Host.Outcome State Fault Refusal :=
  uartIn i s (fun u => u.msr) (fun u => { u with msr := u.msr &&& 0xF0, pendMs := false }) (fun _ => true)

/-- IN SCR (43_uart.md R270). -/
def execInUartScr (i : Nat) (s : State) : Host.Outcome State Fault Refusal :=
  uartIn i s (fun u => u.scr) (fun u => u) (fun _ => false)

/-- OUT THR: the byte goes to the host line and THRE clears (43_uart.md R271). -/
def execOutUartThr (i : Nat) (d : Byte) (s : State) : Host.Outcome State Fault Refusal :=
  match s.uarts[i]? with
  | none => .refused .noSuchUart
  | some n =>
    .next (((s.setUart i { uart := { n.uart with pendThre := false }, line := n.line.send d }).markChanged true).emit
      (.txByte (.uart i) d))

/-- OUT DLL (43_uart.md R272). -/
def execOutUartDll (i : Nat) (d : Byte) (s : State) : Host.Outcome State Fault Refusal :=
  uartOut i s (fun u => { u with dll := d }) false

/-- The registers after an IER write: bits 3:0 are held, and a pending bit whose enable is now 0 clears
(43_uart.md R273). -/
def Uart.wroteIer (u : Uart) (d : Byte) : Uart :=
  { u with
    ier := d &&& 0x0F
    pendRx := u.pendRx && d.getLsbD 0
    pendThre := u.pendThre && d.getLsbD 1
    pendMs := u.pendMs && d.getLsbD 3 }

/-- OUT IER (43_uart.md R273). -/
def execOutUartIer (i : Nat) (d : Byte) (s : State) : Host.Outcome State Fault Refusal :=
  uartOut i s (fun u => u.wroteIer d) true

/-- OUT DLM (43_uart.md R274). -/
def execOutUartDlm (i : Nat) (d : Byte) (s : State) : Host.Outcome State Fault Refusal :=
  uartOut i s (fun u => { u with dlm := d }) false

/-- OUT FCR (43_uart.md R275). -/
def execOutUartFcr (i : Nat) (d : Byte) (s : State) : Host.Outcome State Fault Refusal :=
  uartOut i s (fun u => { u with fcr := d }) false

/-- OUT LCR (43_uart.md R276). -/
def execOutUartLcr (i : Nat) (d : Byte) (s : State) : Host.Outcome State Fault Refusal :=
  uartOut i s (fun u => { u with lcr := d }) false

/-- OUT MCR (43_uart.md R277). -/
def execOutUartMcr (i : Nat) (d : Byte) (s : State) : Host.Outcome State Fault Refusal :=
  uartOut i s (fun u => { u with mcr := d }) false

/-- OUT SCR (43_uart.md R279). -/
def execOutUartScr (i : Nat) (d : Byte) (s : State) : Host.Outcome State Fault Refusal :=
  uartOut i s (fun u => { u with scr := d }) false

/-- OUT LSR and OUT MSR: ignored (43_uart.md R278). -/
def execOutUartLsrMsr (i : Nat) (_msr : Bool) (_d : Byte) (s : State) : Host.Outcome State Fault Refusal :=
  uartOut i s (fun u => u) false

end Sys2Proof.Machine
end

