-- ==== Sys2Proof/Machine/Dispatch.lean ====
section
/-! DEFINITION. One arm per operation of spec/opcode_table.json (30_encoding.md R112). -/

namespace Sys2Proof.Machine

def exec (i : Instr) (s : State) : Host.Outcome State Fault Refusal :=
  match i with
  | .mrdLo o => Sys2Proof.Machine.execMrdLo o s
  | .mrdHi o => Sys2Proof.Machine.execMrdHi o s
  | .mfetchLo o => Sys2Proof.Machine.execMfetchLo o s
  | .mfetchHi o => Sys2Proof.Machine.execMfetchHi o s
  | .mwrLo o d => Sys2Proof.Machine.execMwrLo o d s
  | .mwrHi o d => Sys2Proof.Machine.execMwrHi o d s
  | .outBsel d => Sys2Proof.Machine.execOutBsel d s
  | .outRb d => Sys2Proof.Machine.execOutRb d s
  | .outWin d => Sys2Proof.Machine.execOutWin d s
  | .inBsel => Sys2Proof.Machine.execInBsel s
  | .inRb => Sys2Proof.Machine.execInRb s
  | .inWin => Sys2Proof.Machine.execInWin s
  | .outTrace d => Sys2Proof.Machine.execOutTrace d s
  | .inTrace => Sys2Proof.Machine.execInTrace s
  | .inUnmapped port => Sys2Proof.Machine.execInUnmapped port s
  | .outUnmapped port d => Sys2Proof.Machine.execOutUnmapped port d s
  | .inSioData c => Sys2Proof.Machine.execInSioData c s
  | .outSioData c d => Sys2Proof.Machine.execOutSioData c d s
  | .inSioCtrl c => Sys2Proof.Machine.execInSioCtrl c s
  | .outSioCmd0 c crc ptr => Sys2Proof.Machine.execOutSioCmd0 c crc ptr s
  | .outSioCmd1 c crc ptr => Sys2Proof.Machine.execOutSioCmd1 c crc ptr s
  | .outSioCmd2 c crc ptr => Sys2Proof.Machine.execOutSioCmd2 c crc ptr s
  | .outSioCmd3 c crc ptr => Sys2Proof.Machine.execOutSioCmd3 c crc ptr s
  | .outSioCmd4 c crc ptr => Sys2Proof.Machine.execOutSioCmd4 c crc ptr s
  | .outSioCmd5 c crc ptr => Sys2Proof.Machine.execOutSioCmd5 c crc ptr s
  | .outSioCmd6 c crc ptr => Sys2Proof.Machine.execOutSioCmd6 c crc ptr s
  | .outSioCmd7 c crc ptr => Sys2Proof.Machine.execOutSioCmd7 c crc ptr s
  | .outSioWrn c d => Sys2Proof.Machine.execOutSioWrn c d s
  | .inUartRbr u => Sys2Proof.Machine.execInUartRbr u s
  | .inUartDll u => Sys2Proof.Machine.execInUartDll u s
  | .inUartIer u => Sys2Proof.Machine.execInUartIer u s
  | .inUartDlm u => Sys2Proof.Machine.execInUartDlm u s
  | .inUartIir u => Sys2Proof.Machine.execInUartIir u s
  | .inUartLcr u => Sys2Proof.Machine.execInUartLcr u s
  | .inUartMcr u => Sys2Proof.Machine.execInUartMcr u s
  | .inUartLsr u => Sys2Proof.Machine.execInUartLsr u s
  | .inUartMsr u => Sys2Proof.Machine.execInUartMsr u s
  | .inUartScr u => Sys2Proof.Machine.execInUartScr u s
  | .outUartThr u d => Sys2Proof.Machine.execOutUartThr u d s
  | .outUartDll u d => Sys2Proof.Machine.execOutUartDll u d s
  | .outUartIer u d => Sys2Proof.Machine.execOutUartIer u d s
  | .outUartDlm u d => Sys2Proof.Machine.execOutUartDlm u d s
  | .outUartFcr u d => Sys2Proof.Machine.execOutUartFcr u d s
  | .outUartLcr u d => Sys2Proof.Machine.execOutUartLcr u d s
  | .outUartMcr u d => Sys2Proof.Machine.execOutUartMcr u d s
  | .outUartScr u d => Sys2Proof.Machine.execOutUartScr u d s
  | .outUartLsrMsr u msr d => Sys2Proof.Machine.execOutUartLsrMsr u msr d s
  | .inDbDlo => Sys2Proof.Machine.execInDbDlo s
  | .inDbDhi => Sys2Proof.Machine.execInDbDhi s
  | .inDbCtl => Sys2Proof.Machine.execInDbCtl s
  | .inDbDir => Sys2Proof.Machine.execInDbDir s
  | .outDbDlo d => Sys2Proof.Machine.execOutDbDlo d s
  | .outDbDhi d => Sys2Proof.Machine.execOutDbDhi d s
  | .outDbCtl d => Sys2Proof.Machine.execOutDbCtl d s
  | .outDbDir d => Sys2Proof.Machine.execOutDbDir d s
  | .evtTick => Sys2Proof.Machine.execEvtTick s
  | .evtPulse => Sys2Proof.Machine.execEvtPulse s
  | .evtPoll => Sys2Proof.Machine.execEvtPoll s
  | .evtReset => Sys2Proof.Machine.execEvtReset s
  | .evtCpuReset => Sys2Proof.Machine.execEvtCpuReset s

end Sys2Proof.Machine
end

