-- ==== Sys2Proof/Machine/Step.lean ====
section
/-! DEFINITION. One step of the machine: the next input of its agents (00_scope.md R8, R14; 20_memory.md R92, R96). -/

namespace Sys2Proof.Machine

/-- Run one transaction word: decode it in the state's view and execute the operation; a reserved word is refused
(30_encoding.md R104, R105). The returned byte of the operation before is gone from the bus. -/
def runWord (t : TWord) (s : State) : Host.Outcome State Fault Refusal :=
  match decode s.view t with
  | .error r => .refused (.reservedWord r)
  | .ok i => exec i { s with result := none }

/-- One step: the first pending input, if there is one. With no input pending nothing happens: the block has no agent of
its own (00_scope.md R8). A configuration the spec refuses has no model (00_scope.md R10, R11). -/
def step (s : State) : Host.Outcome State Fault Refusal :=
  if configValid s.cfg then
    match s.inbox with
    | [] => .next s
    | .word t :: rest => runWord t { s with inbox := rest }
    | .host a :: rest => .next (hostAct a { s with inbox := rest })
  else .refused .invalidConfiguration

/-- The state with a transaction word as its next input (notes/assumptions/7.md). -/
def State.withFetchWord (s : State) (_nbits w : Nat) : State :=
  { s with inbox := .word (BitVec.ofNat 27 w) :: s.inbox }

end Sys2Proof.Machine
end

