-- ==== Sys2Proof/Machine/Launch.lean ====
section
/-! DEFINITION. How a run begins: the launch precondition and the initial state (10_state.md R33;
70_reset_and_hazards.md R451, R455; 00_scope.md R10, R11). -/

namespace Sys2Proof.Machine

/-- What a platform is launched with: its configuration, the ROM image, every other storage byte (the persisted RAM
image among them), and the host side. -/
structure Launch where
  cfg : Config
  image : List Byte
  flat : List Host.Cell
  rom : List Host.Cell
  ram : List Host.Cell
  lineA : HostLine
  lineB : HostLine
  uartLines : List HostLine
  dev : BlockDevice
deriving DecidableEq, Repr

/-- An unbound channel: never ready to receive, always ready to transmit (10_state.md R53). -/
def HostLine.unbound : HostLine := { bound := false, rx := [], txReady := true, failed := false, tx := [] }

/-- The bytes of an image at rising offsets from `k` (70_reset_and_hazards.md R455: in bank order from offset 0). -/
def imageCells (k : Nat) : List Byte → List Host.Cell
  | [] => []
  | b :: r => (k, b) :: imageCells (k + 1) r

/-- An array of `size` bytes filled with the listed cells, a later one over an earlier one. -/
def Memory.ofCells (size : Nat) (l : List Host.Cell) : Memory :=
  l.foldl (fun m c => if c.1 < size then m.write c.1 c.2 else m) []

/-- The UARTs of a configuration at reset, each with its host line, an unbound one where none is given. -/
def uartUnits (msr : Byte) : List UartConfig → List HostLine → List UartUnit
  | [], _ => []
  | _ :: us, [] => { uart := Uart.reset msr, line := HostLine.unbound } :: uartUnits msr us []
  | _ :: us, l :: ls => { uart := Uart.reset msr, line := l } :: uartUnits msr us ls

/-- The image cells of the FLAT array under scheme FLAT, of the ROM array under DUAL (70_reset_and_hazards.md R455). An
image longer than the FLAT ROM banks goes on into the RAM banks after them: DESIGN CHOICE (notes/assumptions/22.md). -/
def imageFor (arr : StoreArray) (L : Launch) : List Host.Cell :=
  match L.cfg.scheme, arr with
  | .flat, .flat => imageCells 0 L.image
  | .dual, .rom => imageCells 0 L.image
  | _, _ => []

/-- The launch storage and host side, before RESET is applied (70_reset_and_hazards.md R451, R455). -/
def launchState (L : Launch) : State :=
  { State.reset with
    cfg := L.cfg
    flat := Memory.ofCells (arraySize L.cfg .flat) (L.flat ++ imageFor .flat L)
    rom := Memory.ofCells (arraySize L.cfg .rom) (L.rom ++ imageFor .rom L)
    ram := Memory.ofCells (arraySize L.cfg .ram) (L.ram ++ imageFor .ram L)
    uarts := uartUnits L.cfg.uartMsrReset L.cfg.uarts L.uartLines
    lineA := L.lineA, lineB := L.lineB, dev := L.dev, events := [] }

/-- The initial state of a run: RESET applied to the launch storage (70_reset_and_hazards.md R451). A configuration the
spec refuses, or an image of the wrong size, begins no run (00_scope.md R10, R11; 70_reset_and_hazards.md R455). -/
def launch (L : Launch) : Host.Outcome State Fault Refusal :=
  if configValid L.cfg = false then .refused .invalidConfiguration
  else if L.image.length ≠ L.cfg.romImageSize then .refused .wrongImageSize
  else .next ((resetRegisters (launchState L)).emit .cpuReset)

end Sys2Proof.Machine
end

