-- ==== Sys2Proof/Safety.lean ====
section
/-! DEFINITION. What counts as a good state and a safe run, in the words the statements use: the invariants of
42_serial_fifo.md R198, 43_uart.md R285, 10_state.md R47 and of the storage's canonical form, and the small notions of
what a step changed. -/

namespace Sys2Proof.Machine

/-- The invariants of one SIO channel (42_serial_fifo.md R198). -/
def SioChannel.good (ch : SioChannel) : Bool :=
  decide (ch.q.length ≤ Config.sioQueueDepth) && (!ch.pendRxa || !ch.q.isEmpty) && (!ch.pendErr || ch.ovr)

/-- The invariants of one UART (43_uart.md R285), with `IER[7:4]` reading 0 (10_state.md R42). -/
def Uart.good (u : Uart) : Bool :=
  (!u.pendRx || u.lsr.getLsbD 0 && u.ier.getLsbD 0) && (!u.pendThre || u.lsr.getLsbD 5 && u.ier.getLsbD 1) &&
    (!u.pendMs || u.msr &&& 0x0F != 0#8 && u.ier.getLsbD 3) && u.ier &&& 0xF0 == 0#8

/-- The live source is one the arbiter scans (10_state.md R48). -/
def liveKnown (s : State) : Bool :=
  match s.live with
  | none => true
  | some src => s.cfg.arbOrder.contains src

/-- The invariant of the machine: a valid configuration, every array in canonical form, one UART state per configured
instance, the invariants of each device, and `PREV = CTL` (10_state.md R47). -/
structure Inv (s : State) : Prop where
  config : configValid s.cfg = true
  flat : s.flat.wf (arraySize s.cfg .flat) = true
  rom : s.rom.wf (arraySize s.cfg .rom) = true
  ram : s.ram.wf (arraySize s.cfg .ram) = true
  uartCount : s.uarts.length = s.cfg.uarts.length
  sioA : s.sioA.good = true
  sioB : s.sioB.good = true
  uarts : ∀ n ∈ s.uarts, n.uart.good = true
  strobe : s.db.prev = s.db.ctl
  live : liveKnown s = true

/-- No bound line's readiness check fails (60_exceptions.md R412). -/
def hostHealthy (s : State) : Bool := !tickBroken s

/-- Two locations are the same storage byte. -/
def Loc.same (l k : Loc) : Prop := l.arr = k.arr ∧ l.key = k.key

/-- `t` is `s` with byte `d` stored at `l`: every other storage byte reads as before, and every field but storage is
the same. -/
def StoredAt (l : Loc) (d : Byte) (s t : State) : Prop :=
  t.readLoc l = d ∧ (∀ k : Loc, ¬ k.same l → t.readLoc k = s.readLoc k) ∧
    t = { s with flat := t.flat, rom := t.rom, ram := t.ram }

/-- The operation writes storage (40_bank_translator.md R136). -/
def isMemoryWrite : Instr → Bool
  | .mwrLo _ _ => true
  | .mwrHi _ _ => true
  | _ => false

/-- The operation is an opcode fetch (40_bank_translator.md R135). -/
def isFetch : Instr → Bool
  | .mfetchLo _ => true
  | .mfetchHi _ => true
  | _ => false

/-- The operation writes a bank-select register (40_bank_translator.md R138, R139). -/
def isBankWrite : Instr → Bool
  | .outBsel _ | .outRb _ | .outWin _ => true
  | _ => false

/-- The lower window shows the common bank (40_bank_translator.md R140), under R133's map. -/
def lowerShowsCommon (s : State) : Bool :=
  match s.cfg.scheme with
  | .flat => decide (s.bsel.toNat % 16 = s.cfg.flatCommon)
  | .dual => s.win.getLsbD 0 && decide (s.rb.toNat % s.cfg.dualBanks = s.cfg.dualCommon)

/-- The memory read of a CPU address (30_encoding.md R108). -/
def mrdOf (a : Addr) : Instr := if addrUpper a then .mrdHi (addrOffset a) else .mrdLo (addrOffset a)

/-- The opcode fetch of a CPU address. -/
def mfetchOf (a : Addr) : Instr := if addrUpper a then .mfetchHi (addrOffset a) else .mfetchLo (addrOffset a)

/-- The memory write of a CPU address. -/
def mwrOf (a : Addr) (d : Byte) : Instr := if addrUpper a then .mwrHi (addrOffset a) d else .mwrLo (addrOffset a) d

/-- The array a CPU address reaches is in canonical form. -/
def storageGood (s : State) (l : Loc) : Bool := (s.mem l.arr).wf (arraySize s.cfg l.arr)

/-- The word a state steps on next. -/
def State.nextWord (s : State) : Option TWord :=
  match s.inbox with
  | .word t :: _ => some t
  | _ => none

/-- The number of RETI events so far. -/
def retiCount (s : State) : Nat := s.events.countP (· == .reti)

/-- The event is an injection. -/
def Event.isInject : Event → Bool
  | .inject _ => true
  | _ => false

/-- The event is a device transfer of the disk bridge. -/
def Event.isTransfer : Event → Bool
  | .devWrite16 _ _ => true
  | .devRead16 _ _ => true
  | _ => false

/-- The number of device transfers so far. -/
def transferCount (s : State) : Nat := s.events.countP Event.isTransfer

/-- Injections after the last RETI event of a list. -/
def injectsSinceReti (es : List Event) : Nat := (es.reverse.takeWhile (· != .reti)).countP Event.isInject

/-- The bytes fetched one after another through the RETI detector (45_interrupt_arbiter.md R360). -/
def sniffAll (bs : List Byte) (s : State) : State := bs.foldl (fun t b => sniffStep b t) s

/-- The bytes pushed one after another into channel `c` (42_serial_fifo.md R195). -/
def pushAll (c : Channel) (bs : List Byte) (s : State) : State := bs.foldl (fun t b => sioPush c b t) s

/-- The operations run one after another; none where one does not answer a next state. -/
def execAll : List Instr → State → Option State
  | [], s => some s
  | i :: is, s =>
    match exec i s with
    | .next t => execAll is t
    | _ => none

/-- The operation acts on SIO channel B alone. -/
def onChannelB : Instr → Bool
  | .inSioData c | .outSioData c _ | .inSioCtrl c | .outSioCmd0 c _ _ | .outSioCmd1 c _ _ | .outSioCmd2 c _ _
  | .outSioCmd3 c _ _ | .outSioCmd4 c _ _ | .outSioCmd5 c _ _ | .outSioCmd6 c _ _ | .outSioCmd7 c _ _
  | .outSioWrn c _ => decide (c = .b)
  | _ => false

/-- The operation can enable an interrupt source: a write of WR1 to WR7 or of `IER` (60_exceptions.md R414). -/
def enablesInterrupts : Instr → Bool
  | .outSioWrn _ _ | .outUartIer _ _ => true
  | _ => false

/-- The number of injections so far. -/
def injectCount (s : State) : Nat := s.events.countP Event.isInject

/-- No device can raise an interrupt: both receivers are off with no condition pending, every UART has `IER = 0` and
nothing pending, and nothing is asserted or live (70_reset_and_hazards.md R457). -/
def interruptsOff (s : State) : Bool :=
  !s.sioA.rxOn && !s.sioB.rxOn && !s.sioA.pendAny && !s.sioB.pendAny && !s.sioAsserted && s.live.isNone &&
    s.uarts.all fun n => n.uart.ier == 0#8 && !n.uart.pendAny

end Sys2Proof.Machine
end

