-- ==== Sys2Proof/Certificates/Slice0/Obligations.lean ====
section
/-! DEFINITION. The statements for the provers: what each operation does, what it leaves unchanged, where it completes,
and the rules that hold over every state. -/

open Sys2Proof Sys2Proof.Machine

/-! The bank translator. -/

/-- 40_bank_translator.md R133, for every DUAL field width of 00_scope.md R9 and, as R133 writes it, for 5 bits. -/
def Obligations.LowerWindowShowsTheSelectedBank : Prop :=
  ∀ (s : State) (o : Offset),
    (s.cfg.scheme = .flat → lowerLoc s o = ⟨.flat, s.bsel.toNat % 16, o⟩) ∧
    (s.cfg.scheme = .dual → s.cfg.dualMap = .standard →
      lowerLoc s o = ⟨if s.win.toNat % 2 = 1 then .ram else .rom, s.rb.toNat % 2 ^ s.cfg.dualIdxBits, o⟩ ∧
      (s.cfg.dualIdxBits = 5 →
        lowerLoc s o = ⟨if s.win.toNat % 2 = 1 then .ram else .rom, s.rb.toNat % 32, o⟩))

/-- 40_bank_translator.md R143: the platform's own map is any function of `RB` and `WIN` with its index in range and its
ROM results read-only. The map is a free function (notes/assumptions/6.md). -/
def Obligations.PlatformDualMapDependsOnlyOnItsRegisters : Prop :=
  ∀ (s t : State) (o : Offset) (d : Byte), s.cfg.scheme = .dual → s.cfg.dualMap = .platform →
    t.cfg = s.cfg → t.rb = s.rb → t.win = s.win →
    lowerLoc t o = lowerLoc s o ∧ (lowerLoc s o).inRange s.cfg = true ∧
    exec (.mwrLo o d) s = .next (if (lowerLoc s o).arr = .rom then s else s.writeLoc (lowerLoc s o) d)

/-- 40_bank_translator.md R132, and the invariance under bank-select writes that the spec derives from it (R142). -/
def Obligations.UpperWindowIgnoresBankSelectWrites : Prop :=
  ∀ (is : List Instr) (s : State), (∀ i ∈ is, isBankWrite i = true) →
    ∃ t, execAll is s = some t ∧ ∀ a : Addr, addrUpper a = true →
      translateAddr t a = translateAddr s a ∧ t.readLoc (translateAddr t a) = s.readLoc (translateAddr s a) ∧
      (s.cfg.scheme = .flat → translateAddr t a = ⟨.flat, s.cfg.flatCommon, addrOffset a⟩) ∧
      (s.cfg.scheme = .dual → translateAddr t a = ⟨.ram, s.cfg.dualCommon, addrOffset a⟩)

/-- 40_bank_translator.md R137 and R141: every address translates to a byte inside its array, in numbers under the
default field widths. -/
def Obligations.EveryTranslationIsInRange : Prop :=
  ∀ (s : State) (a : Addr), configValid s.cfg = true →
    (translateAddr s a).key < arraySize s.cfg (translateAddr s a).arr ∧
    (s.cfg.scheme = .flat → (translateAddr s a).arr = .flat ∧ (translateAddr s a).key ≤ 0x7FFFF) ∧
    (s.cfg.scheme = .dual → s.cfg.dualIdxBits = 5 →
      (translateAddr s a).arr ≠ .flat ∧ (translateAddr s a).key ≤ 0xFFFFF)

/-- 40_bank_translator.md R140: two different addresses reach one storage byte exactly when they have one offset and the
lower window shows the common bank. -/
def Obligations.WindowsAliasExactlyAtTheCommonBank : Prop :=
  ∀ (s : State) (a b : Addr), configValid s.cfg = true → s.cfg.dualMap = .standard → a ≠ b →
    ((translateAddr s a).same (translateAddr s b) ↔ addrOffset a = addrOffset b ∧ lowerShowsCommon s = true)

/-- 40_bank_translator.md R134 and R135, both windows: a data read and an opcode fetch return the byte of the translated
location; the fetch also feeds it to the RETI detector. -/
def Obligations.ReadsAndFetchesReturnTheTranslatedByte : Prop :=
  ∀ (s : State) (o : Offset), configValid s.cfg = true →
    exec (.mrdLo o) s = .next { s with result := some (s.readLoc (lowerLoc s o)) } ∧
    exec (.mrdHi o) s = .next { s with result := some (s.readLoc (upperLoc s.cfg o)) } ∧
    exec (.mfetchLo o) s = .next (sniffStep (s.readLoc (lowerLoc s o))
      { s with result := some (s.readLoc (lowerLoc s o)) }) ∧
    exec (.mfetchHi o) s = .next (sniffStep (s.readLoc (upperLoc s.cfg o))
      { s with result := some (s.readLoc (upperLoc s.cfg o)) })

/-- 40_bank_translator.md R136, both windows: a write to ROM changes nothing; any other stores the byte at the translated
location and nothing else. -/
def Obligations.MemoryWriteStoresTheByteOrIsDiscarded : Prop :=
  (∀ (s : State) (o : Offset) (d : Byte), configValid s.cfg = true → storageGood s (lowerLoc s o) = true →
    if (lowerLoc s o).isRom s.cfg = true then exec (.mwrLo o d) s = .next s
    else ∃ t, exec (.mwrLo o d) s = .next t ∧ StoredAt (lowerLoc s o) d s t) ∧
  (∀ (s : State) (o : Offset) (d : Byte), configValid s.cfg = true → storageGood s (upperLoc s.cfg o) = true →
    if (upperLoc s.cfg o).isRom s.cfg = true then exec (.mwrHi o d) s = .next s
    else ∃ t, exec (.mwrHi o d) s = .next t ∧ StoredAt (upperLoc s.cfg o) d s t) ∧
  (∀ (c : Config) (b : Nat) (o : Offset), Loc.isRom c ⟨.flat, b, o⟩ = decide (b < c.flatRomBanks) ∧
    Loc.isRom c ⟨.rom, b, o⟩ = true ∧ Loc.isRom c ⟨.ram, b, o⟩ = false)

/-- 10_state.md R34. -/
def Obligations.OnlyMemoryWritesChangeStorage : Prop :=
  ∀ (i : Instr) (s t : State), exec i s = .next t → isMemoryWrite i = false →
    ∀ l : Loc, t.readLoc l = s.readLoc l

/-- 20_memory.md R95, 70_reset_and_hazards.md R468: a stored byte is what the next read or fetch of the same storage byte
returns, through either window. -/
def Obligations.StoredByteIsSeenByTheNextReadAndFetch : Prop :=
  ∀ (s t : State) (a b : Addr) (d : Byte), configValid s.cfg = true → storageGood s (translateAddr s a) = true →
    (translateAddr s a).same (translateAddr s b) → (translateAddr s a).isRom s.cfg = false → exec (mwrOf a d) s = .next t →
    ∃ u v, exec (mrdOf b) t = .next u ∧ u.result = some d ∧ exec (mfetchOf b) t = .next v ∧ v.result = some d

/-- 40_bank_translator.md R138 and R139: a bank-select write stores the byte and nothing else, and the next lower-window
translation uses it (under DUAL: R133's map, every field width, and 5 bits as R133 writes it). -/
def Obligations.BankSelectWriteSetsOnlyItsRegister : Prop :=
  ∀ (s : State) (d : Byte),
    exec (.outBsel d) s = .next { s with bsel := d } ∧
    exec (.outRb d) s = .next { s with rb := d } ∧
    exec (.outWin d) s = .next { s with win := d } ∧
    (s.cfg.scheme = .flat → ∀ o, lowerLoc { s with bsel := d } o = ⟨.flat, d.toNat % 16, o⟩) ∧
    (s.cfg.scheme = .dual → s.cfg.dualMap = .standard → ∀ o,
      lowerLoc { s with rb := d } o = ⟨(lowerLoc s o).arr, d.toNat % 2 ^ s.cfg.dualIdxBits, o⟩ ∧
      (s.cfg.dualIdxBits = 5 → lowerLoc { s with rb := d } o = ⟨(lowerLoc s o).arr, d.toNat % 32, o⟩) ∧
      lowerLoc { s with win := d } o = ⟨if d.toNat % 2 = 1 then .ram else .rom, (lowerLoc s o).bank, o⟩)

/-! The port multiplexer. -/

/-- 41_port_dispatch.md R175. That the any-byte answer is `Config.drawByte` of the draw count is the model's form of it
(notes/assumptions/4.md). -/
def Obligations.BankSelectReadBackIsAnyByte : Prop :=
  ∀ (s : State) (i : Instr), i = .inBsel ∨ i = .inRb ∨ i = .inWin →
    exec i s = .next { s with result := some (Config.drawByte s.draws), draws := s.draws + 1 }

/-- 41_port_dispatch.md R173, R174, R176, R177. -/
def Obligations.UnmappedAndTracePortsReadAllOnes : Prop :=
  ∀ (s : State) (p d : Byte),
    exec (.inUnmapped p) s = .next { s with result := some 0xFF } ∧
    exec (.outUnmapped p d) s = .next s ∧
    exec (.outTrace d) s = .next { s with traceMask := d } ∧
    exec .inTrace s = .next { s with result := some 0xFF }

/-- 10_state.md R51 and R52: two states that differ in the trace mask and in `CHANGED` step alike, give the same result
and events, and go on to differ in those two only. -/
def Obligations.TraceMaskAndChangedAreReadByNoRule : Prop :=
  ∀ (s : State) (m : Byte) (c : Bool),
    (∀ t, step s = .next t →
      ∃ m' c', step { s with traceMask := m, changed := c } = .next { t with traceMask := m', changed := c' }) ∧
    (∀ f, step s = .fault f → step { s with traceMask := m, changed := c } = .fault f) ∧
    (∀ r, step s = .refused r → step { s with traceMask := m, changed := c } = .refused r)

/-! The serial controller. -/

/-- 42_serial_fifo.md R196, R201, R202. The byte an empty queue gives is a free value (notes/assumptions/4.md). -/
def Obligations.SioDataReadPopsTheOldestByte : Prop :=
  ∀ (s : State) (c : Channel),
    (∀ b r, (s.chan c).q = b :: r → exec (.inSioData c) s = .next
      { s.setChan c { s.chan c with q := r, pendRxa := (s.chan c).pendRxa && !r.isEmpty } with result := some b }) ∧
    ((s.chan c).q = [] → exec (.inSioData c) s = .next
      { s with result := some (Config.drawByte s.draws), draws := s.draws + 1 })

/-- 42_serial_fifo.md R203 and 43_uart.md R271; 10_state.md R53 for an unbound channel, whose byte is discarded. -/
def Obligations.TransmitWritesReachTheirHostLine : Prop :=
  (∀ (s : State) (c : Channel) (d : Byte),
    exec (.outSioData c d) s = .next
      { s.setSioLine c { s.sioLine c with tx := if (s.sioLine c).bound then (s.sioLine c).tx ++ [d] else (s.sioLine c).tx }
        with events := s.events ++ [.txByte (.sio c) d] }) ∧
  (∀ (s : State) (i : Nat) (n : UartUnit) (d : Byte), s.uarts[i]? = some n →
    exec (.outUartThr i d) s = .next
      { s with
        uarts := s.uarts.set i
          { uart := { n.uart with pendThre := false }
            line := { n.line with tx := if n.line.bound then n.line.tx ++ [d] else n.line.tx } }
        changed := true, events := s.events ++ [.txByte (.uart i) d] })

/-- 42_serial_fifo.md R204 with R207: RR0 bit by bit; and 60_exceptions.md R412: a failing readiness check of the line
ends the run. -/
def Obligations.SioStatusReadReturnsRegisterZero : Prop :=
  ∀ (s : State) (c : Channel), (s.chan c).ptr = 0#3 →
    ((s.sioLine c).broken = true → exec (.inSioCtrl c) s = .fault .hostReadinessFailed) ∧
    ((s.sioLine c).broken = false → ∃ v : Byte, exec (.inSioCtrl c) s = .next { s with result := some v } ∧
      v.getLsbD 0 = !(s.chan c).q.isEmpty ∧ v.getLsbD 1 = (decide (c = .a) && s.sioAsserted) ∧
      v.getLsbD 2 = (!(s.sioLine c).bound || (s.sioLine c).txReady) ∧ v.getLsbD 3 = s.cfg.sioDcd ∧
      v.getLsbD 4 = false ∧ v.getLsbD 5 = s.cfg.sioCts ∧ v.getLsbD 6 = false ∧ v.getLsbD 7 = false)

/-- 42_serial_fifo.md R205, R206, R207: RR1, RR2 and the pointers with no register; the pointer returns to 0. -/
def Obligations.SioReadRegistersOneToSeven : Prop :=
  ∀ (s : State) (c : Channel),
    ((s.chan c).ptr = 1#3 → exec (.inSioCtrl c) s = .next
      { s.setChan c { s.chan c with ptr := 0 } with result := some (if (s.chan c).ovr then 0x21 else 0x01) }) ∧
    ((s.chan c).ptr = 2#3 → exec (.inSioCtrl c) s = .next
      { s.setChan c { s.chan c with ptr := 0 } with
        result := some (if c = .b then computeVector s.sioA s.sioB else s.sioA.wr[2]) }) ∧
    (3 ≤ (s.chan c).ptr.toNat → exec (.inSioCtrl c) s = .next
      { s.setChan c { s.chan c with ptr := 0 } with
        result := some (Config.drawByte s.draws), draws := s.draws + 1 })

/-- 42_serial_fifo.md R208 with R210, R211, R212, R215: commands 0, 1, 2 and 5 store WR0 and load the pointer only. -/
def Obligations.NullCommandsOnlyStoreWr0AndPointer : Prop :=
  ∀ (s : State) (c : Channel) (crc : BitVec 2) (ptr : BitVec 3),
    let after (cmd : BitVec 3) : Host.Outcome State Fault Refusal :=
      .next (s.setChan c { s.chan c with wr := (s.chan c).wr.set 0 (crc ++ cmd ++ ptr), ptr := ptr })
    exec (.outSioCmd0 c crc ptr) s = after 0 ∧ exec (.outSioCmd1 c crc ptr) s = after 1 ∧
    exec (.outSioCmd2 c crc ptr) s = after 2 ∧ exec (.outSioCmd5 c crc ptr) s = after 5

/-- 42_serial_fifo.md R197, R213, R214, R216 with R208: channel reset puts every register of the channel at its power-on
value; commands 4 and 6 change their flags only; each then loads the pointer. -/
def Obligations.ChannelResetRearmAndErrorReset : Prop :=
  ∀ (s : State) (c : Channel) (crc : BitVec 2) (ptr : BitVec 3),
    exec (.outSioCmd3 c crc ptr) s = .next (s.setChan c
      { wr := Vector.replicate 8 0x00, ptr := ptr, q := [], ovr := false, pendRxa := false, pendErr := false, arm := true }) ∧
    exec (.outSioCmd4 c crc ptr) s = .next (s.setChan c
      { s.chan c with wr := (s.chan c).wr.set 0 (crc ++ 4#3 ++ ptr), ptr := ptr, arm := true }) ∧
    exec (.outSioCmd6 c crc ptr) s = .next (s.setChan c
      { s.chan c with wr := (s.chan c).wr.set 0 (crc ++ 6#3 ++ ptr), ptr := ptr, ovr := false, pendErr := false })

/-- 42_serial_fifo.md R194 and R217 with R208: on channel A the asserted latch follows the pending bits and the vector is
computed anew; on channel B nothing but WR0 and the pointer changes. -/
def Obligations.ReturnCommandReevaluatesChannelA : Prop :=
  (∀ (s : State) (crc : BitVec 2) (ptr : BitVec 3),
    exec (.outSioCmd7 .a crc ptr) s = .next
      { s with
        sioA := { s.sioA with wr := s.sioA.wr.set 0 (crc ++ 7#3 ++ ptr), ptr := ptr }
        sioAsserted := s.sioA.pendRxa || s.sioA.pendErr
        sioVec := if s.sioA.pendRxa || s.sioA.pendErr then computeVector s.sioA s.sioB else s.sioVec
        changed := true }) ∧
  (∀ (s : State) (crc : BitVec 2) (ptr : BitVec 3),
    exec (.outSioCmd7 .b crc ptr) s = .next
      { s with sioB := { s.sioB with wr := s.sioB.wr.set 0 (crc ++ 7#3 ++ ptr), ptr := ptr } })

/-- 42_serial_fifo.md R209: the register the pointer names, the arm flag on WR1, the pointer back to 0. -/
def Obligations.PointedRegisterWriteSetsOnlyThatRegister : Prop :=
  ∀ (s : State) (c : Channel) (d : Byte), (s.chan c).ptr ≠ 0#3 →
    ∃ ch : SioChannel, exec (.outSioWrn c d) s = .next (s.setChan c ch) ∧
      (∀ n : Fin 8, ch.wr[n] = if n.val = (s.chan c).ptr.toNat then d else (s.chan c).wr[n]) ∧
      ch = { s.chan c with wr := ch.wr, ptr := 0, arm := (s.chan c).arm || decide ((s.chan c).ptr = 1#3) }

/-- 42_serial_fifo.md R195 with R193: what one received byte does to its channel and to the latch, the vector and
`CHANGED`; its `WR` and `PTR`, the other channel and every other field stay. -/
def Obligations.ReceivedByteIsDroppedQueuedOrReplacesTheNewest : Prop :=
  ∀ (s : State) (c : Channel) (b : Byte),
    let raised : Bool := (s.chan c).wr[3].getLsbD 0 &&
      if (s.chan c).q.length = 3 then decide ((s.chan c).mode ≠ 0#2)
      else decide (2 ≤ (s.chan c).mode.toNat) || (decide ((s.chan c).mode = 1#2) && (s.chan c).arm)
    (raised = false ∨ c = .b ∨ s.sioAsserted = true →
      (sioPush c b s).sioAsserted = s.sioAsserted ∧ (sioPush c b s).sioVec = s.sioVec ∧
      (sioPush c b s).changed = s.changed) ∧
    (raised = true → c = .a → s.sioAsserted = false →
      (sioPush c b s).sioAsserted = true ∧ (sioPush c b s).changed = true ∧
      (sioPush c b s).sioVec = computeVector (sioPush c b s).sioA (sioPush c b s).sioB) ∧
    (sioPush c b s = { s.setChan c ((sioPush c b s).chan c) with
      sioAsserted := (sioPush c b s).sioAsserted, sioVec := (sioPush c b s).sioVec, changed := (sioPush c b s).changed }) ∧
    ((sioPush c b s).chan c).wr = (s.chan c).wr ∧ ((sioPush c b s).chan c).ptr = (s.chan c).ptr ∧
    ((s.chan c).wr[3].getLsbD 0 = false → sioPush c b s = s) ∧
    ((s.chan c).wr[3].getLsbD 0 = true → (s.chan c).q.length = 3 →
      ((sioPush c b s).chan c).q = (s.chan c).q.set 2 b ∧ ((sioPush c b s).chan c).ovr = true ∧
      ((sioPush c b s).chan c).pendErr = ((s.chan c).pendErr || decide ((s.chan c).mode ≠ 0#2)) ∧
      ((sioPush c b s).chan c).pendRxa = (s.chan c).pendRxa ∧ ((sioPush c b s).chan c).arm = (s.chan c).arm) ∧
    ((s.chan c).wr[3].getLsbD 0 = true → (s.chan c).q.length ≠ 3 →
      ((sioPush c b s).chan c).q = (s.chan c).q ++ [b] ∧ ((sioPush c b s).chan c).ovr = (s.chan c).ovr ∧
      ((sioPush c b s).chan c).pendErr = (s.chan c).pendErr ∧
      ((sioPush c b s).chan c).pendRxa = ((s.chan c).pendRxa || decide (2 ≤ (s.chan c).mode.toNat) ||
        (decide ((s.chan c).mode = 1#2) && (s.chan c).arm)) ∧
      ((sioPush c b s).chan c).arm = ((s.chan c).arm && decide ((s.chan c).mode ≠ 1#2)))

/-- 42_serial_fifo.md R192 and R193: raising a condition asserts the line only on channel A and only from the released
state, with the vector of the highest condition. -/
def Obligations.RaiseLatchesTheVectorOfTheHighestCondition : Prop :=
  (∀ (s : State) (cond : SioCond), sioRaise .b cond s = s.setChan .b (s.sioB.setPend cond)) ∧
  (∀ (s : State) (cond : SioCond), s.sioAsserted = true → sioRaise .a cond s = s.setChan .a (s.sioA.setPend cond)) ∧
  (∀ (s : State) (cond : SioCond), s.sioAsserted = false → sioRaise .a cond s =
    { s.setChan .a (s.sioA.setPend cond) with
      sioAsserted := true, sioVec := computeVector (s.sioA.setPend cond) s.sioB, changed := true }) ∧
  (∀ (a b : SioChannel),
    (b.wr[1].getLsbD 2 = false → computeVector a b = b.wr[2]) ∧
    (b.wr[1].getLsbD 2 = true → a.pendRxa = true → computeVector a b = (b.wr[2] &&& 0xF1) ||| 0x0C) ∧
    (b.wr[1].getLsbD 2 = true → a.pendRxa = false → a.pendErr = true → computeVector a b = (b.wr[2] &&& 0xF1) ||| 0x0E) ∧
    (b.wr[1].getLsbD 2 = true → a.pendRxa = false → a.pendErr = false →
      computeVector a b = (b.wr[2] &&& 0xF1) ||| 0x06))

/-- 42_serial_fifo.md R195 and R198: pushing more bytes than the queue holds never grows it past 3, sets the overrun
flag, and leaves the newest byte in the last slot. -/
def Obligations.OverrunKeepsTheQueueAtItsDepth : Prop :=
  ∀ (s : State) (c : Channel) (bs : List Byte), (s.chan c).wr[3].getLsbD 0 = true → (s.chan c).q.length ≤ 3 →
    3 < (s.chan c).q.length + bs.length → bs ≠ [] →
    ((pushAll c bs s).chan c).q.length = 3 ∧ ((pushAll c bs s).chan c).ovr = true ∧
    ((pushAll c bs s).chan c).q.getLast? = bs.getLast?

/-- 42_serial_fifo.md R200: no sequence of operations on channel B, and no byte received on it, asserts the line. -/
def Obligations.ChannelBNeverAsserts : Prop :=
  (∀ (is : List Instr) (s t : State), (∀ i ∈ is, onChannelB i = true) → execAll is s = some t →
    s.sioAsserted = false → t.sioAsserted = false) ∧
  (∀ (bs : List Byte) (s : State), s.sioAsserted = false → (pushAll .b bs s).sioAsserted = false)

/-! The UART. -/

/-- 43_uart.md R261, R263, R264, R266, R267, R270: the register is returned and nothing else changes. -/
def Obligations.PlainUartReadsChangeNothing : Prop :=
  ∀ (s : State) (i : Nat) (n : UartUnit), s.uarts[i]? = some n →
    exec (.inUartDll i) s = .next { s with result := some n.uart.dll } ∧
    exec (.inUartIer i) s = .next { s with result := some n.uart.ier } ∧
    exec (.inUartDlm i) s = .next { s with result := some n.uart.dlm } ∧
    exec (.inUartLcr i) s = .next { s with result := some n.uart.lcr } ∧
    exec (.inUartMcr i) s = .next { s with result := some n.uart.mcr } ∧
    exec (.inUartScr i) s = .next { s with result := some n.uart.scr }

/-- 43_uart.md R265 with R281: the identification, its priority, and the acknowledge of a reported THRE. -/
def Obligations.IdentificationReadAcknowledgesTransmit : Prop :=
  ∀ (s : State) (i : Nat) (n : UartUnit), s.uarts[i]? = some n →
    (n.uart.pendRx = true → exec (.inUartIir i) s = .next { s with result := some 0x04 }) ∧
    (n.uart.pendRx = false → n.uart.pendThre = true → exec (.inUartIir i) s = .next
      { s with uarts := s.uarts.set i { n with uart := { n.uart with pendThre := false } }
               changed := true, result := some 0x02 }) ∧
    (n.uart.pendRx = false → n.uart.pendThre = false → n.uart.pendMs = true →
      exec (.inUartIir i) s = .next { s with result := some 0x00 }) ∧
    (n.uart.pendRx = false → n.uart.pendThre = false → n.uart.pendMs = false →
      exec (.inUartIir i) s = .next { s with result := some 0x01 })

/-- 43_uart.md R262, R268, R269: the reads that clear what they report. -/
def Obligations.ClearingUartReadsClearWhatTheyReport : Prop :=
  ∀ (s : State) (i : Nat) (n : UartUnit), s.uarts[i]? = some n →
    exec (.inUartRbr i) s = .next
      { s with
        uarts := s.uarts.set i { n with uart := { n.uart with lsr := n.uart.lsr &&& 0xFE, pendRx := false } }
        changed := true, result := some n.uart.rbr } ∧
    exec (.inUartLsr i) s = .next
      { s with uarts := s.uarts.set i { n with uart := { n.uart with lsr := n.uart.lsr &&& 0xE1 } }
               result := some n.uart.lsr } ∧
    exec (.inUartMsr i) s = .next
      { s with
        uarts := s.uarts.set i { n with uart := { n.uart with msr := n.uart.msr &&& 0xF0, pendMs := false } }
        changed := true, result := some n.uart.msr }

/-- 43_uart.md R272, R274, R275, R276, R277, R278, R279. -/
def Obligations.PlainUartWritesSetOnlyTheirRegister : Prop :=
  ∀ (s : State) (i : Nat) (n : UartUnit) (d : Byte), s.uarts[i]? = some n →
    let after (u : Uart) : Host.Outcome State Fault Refusal := .next { s with uarts := s.uarts.set i { n with uart := u } }
    exec (.outUartDll i d) s = after { n.uart with dll := d } ∧
    exec (.outUartDlm i d) s = after { n.uart with dlm := d } ∧
    exec (.outUartFcr i d) s = after { n.uart with fcr := d } ∧
    exec (.outUartLcr i d) s = after { n.uart with lcr := d } ∧
    exec (.outUartMcr i d) s = after { n.uart with mcr := d } ∧
    exec (.outUartScr i d) s = after { n.uart with scr := d } ∧
    ∀ m, exec (.outUartLsrMsr i m d) s = .next s

/-- 43_uart.md R273. -/
def Obligations.EnableWriteDropsDisabledPendingBits : Prop :=
  ∀ (s : State) (i : Nat) (n : UartUnit) (d : Byte), s.uarts[i]? = some n →
    exec (.outUartIer i d) s = .next
      { s with
        uarts := s.uarts.set i
          { n with uart :=
              { n.uart with
                ier := d &&& 0x0F
                pendRx := n.uart.pendRx && d.getLsbD 0
                pendThre := n.uart.pendThre && d.getLsbD 1
                pendMs := n.uart.pendMs && d.getLsbD 3 } }
        changed := true }

/-- 43_uart.md R287 over steps: with the divisor-latch access bit set, a word for offset 0 or 1 reads or writes the latch
only. -/
def Obligations.DivisorLatchHidesTheReceiverAndEnables : Prop :=
  ∀ (s : State) (i : Nat) (n : UartUnit) (d : Byte) (rest : List Input), configValid s.cfg = true →
    i < s.cfg.uarts.length → s.uarts[i]? = some n → n.uart.lcr.getLsbD 7 = true →
    (s.inbox = .word (inWord (uartPort s.cfg i 0)) :: rest →
      step s = .next { s with inbox := rest, result := some n.uart.dll }) ∧
    (s.inbox = .word (inWord (uartPort s.cfg i 1)) :: rest →
      step s = .next { s with inbox := rest, result := some n.uart.dlm }) ∧
    (s.inbox = .word (outWord (uartPort s.cfg i 0) d) :: rest →
      step s = .next { s with inbox := rest, result := none
                              uarts := s.uarts.set i { n with uart := { n.uart with dll := d } } }) ∧
    (s.inbox = .word (outWord (uartPort s.cfg i 1) d) :: rest →
      step s = .next { s with inbox := rest, result := none
                              uarts := s.uarts.set i { n with uart := { n.uart with dlm := d } } })

/-- 43_uart.md R283: one tick of a UART, with and without a byte to load, with and without a ready output, and whether it
sets `CHANGED`. -/
def Obligations.UartTickSamplesItsHostLine : Prop :=
  ∀ (n : UartUnit) (b : Byte) (r : List Byte),
    let sent (lsr : Byte) : Byte := if !n.line.bound || n.line.txReady then lsr ||| 0x60 else lsr &&& 0x9F
    let thre : Bool := (!n.line.bound || n.line.txReady) && (n.uart.pendThre || n.uart.ier.getLsbD 1)
    let moved (full : Bool) : Bool := full && n.uart.ier.getLsbD 0 && !n.uart.pendRx ||
      !(!n.line.bound || n.line.txReady) || n.uart.ier.getLsbD 1 && !n.uart.pendThre
    (n.uart.lsr.getLsbD 0 = false → n.line.bound = true → n.line.rx = b :: r →
      (uartTick n).1 =
        { uart := { n.uart with rbr := b, lsr := sent (n.uart.lsr ||| 0x01)
                                pendRx := n.uart.pendRx || n.uart.ier.getLsbD 0, pendThre := thre }
          line := { n.line with rx := r } } ∧ (uartTick n).2 = moved true) ∧
    (n.uart.lsr.getLsbD 0 = true ∨ n.line.bound = false ∨ n.line.rx = [] →
      (uartTick n).1 =
        { n with uart := { n.uart with lsr := sent n.uart.lsr
                                       pendRx := n.uart.pendRx || n.uart.lsr.getLsbD 0 && n.uart.ier.getLsbD 0
                                       pendThre := thre } } ∧ (uartTick n).2 = moved (n.uart.lsr.getLsbD 0))

/-- 43_uart.md R284 and 46_events.md R391. -/
def Obligations.PulseTogglesCarrierDetectWhenEnabled : Prop :=
  ∀ (s : State),
    (s.cfg.pulseEnabled = false → exec .evtPulse s = .next s) ∧
    (s.cfg.pulseEnabled = true → exec .evtPulse s = .next
      { s with
        uarts := s.uarts.map fun n =>
          { n with uart := { n.uart with msr := (n.uart.msr ^^^ 0x80) ||| 0x08
                                         pendMs := n.uart.pendMs || n.uart.ier.getLsbD 3 } }
        changed := s.changed || s.uarts.any fun n => n.uart.ier.getLsbD 3 && !n.uart.pendMs })

/-! Ticks and the host. -/

/-- 46_events.md R390 and 42_serial_fifo.md R199: channel A, then B, at most one byte each, then every UART; and
60_exceptions.md R412: a failing readiness check ends the run. -/
def Obligations.TickSamplesEveryLineInOrder : Prop :=
  (∀ s : State, hostHealthy s = true →
    exec .evtTick s = .next (forUarts uartTick (sioTickChan .b (sioTickChan .a s)))) ∧
  (∀ s : State, hostHealthy s = false → exec .evtTick s = .fault .hostReadinessFailed) ∧
  (∀ (s : State) (c : Channel), (s.sioLine c).bound = false ∨ (s.sioLine c).rx = [] → sioTickChan c s = s) ∧
  (∀ (s : State) (c : Channel) (b : Byte) (r : List Byte), (s.sioLine c).bound = true → (s.sioLine c).rx = b :: r →
    sioTickChan c s = sioPush c b (s.setSioLine c { s.sioLine c with rx := r })) ∧
  (∀ s : State, forUarts uartTick s =
    { s with uarts := s.uarts.map fun n => (uartTick n).1, changed := s.changed || s.uarts.any fun n => (uartTick n).2 })

/-! The disk bridge. -/

/-- 44_disk_bridge.md R321, R322, R323, R324. -/
def Obligations.DiskRegisterAccessHasNoTransfer : Prop :=
  ∀ (s : State) (d : Byte),
    exec .inDbDlo s = .next { s with result := some s.db.dlo } ∧
    exec .inDbDhi s = .next { s with result := some s.db.dhi } ∧
    exec .inDbCtl s = .next { s with result := some s.db.ctl } ∧
    exec .inDbDir s = .next { s with result := some s.db.dir } ∧
    exec (.outDbDlo d) s = .next { s with db := { s.db with dlo := d } } ∧
    exec (.outDbDhi d) s = .next { s with db := { s.db with dhi := d } } ∧
    exec (.outDbDir d) s = .next { s with db := { s.db with dir := d } }

/-- 44_disk_bridge.md R326 and R332: a control write with the reset strobe high resets the device on its rising edge and
makes no transfer. -/
def Obligations.ResetStrobeSuppressesTransfers : Prop :=
  ∀ (s : State) (d : Byte), d.getLsbD s.cfg.dbRstBit.val = true →
    exec (.outDbCtl d) s = .next
      { s with
        db := { s.db with ctl := d, prev := d }
        events := s.events ++ if s.db.prev.getLsbD s.cfg.dbRstBit.val then [] else [.devReset] }

/-- 44_disk_bridge.md R326, R327, R328: without a rising read strobe, a rising write strobe writes `DHI:DLO` to the
selected device register, and no other write transfers anything. -/
def Obligations.RisingWriteStrobeWritesTheDevice : Prop :=
  ∀ (s : State) (d : Byte), d.getLsbD s.cfg.dbRstBit.val = false →
    (d.getLsbD s.cfg.dbRdBit.val = false ∨ s.db.prev.getLsbD s.cfg.dbRdBit.val = true) →
    exec (.outDbCtl d) s = .next
      { s with
        db := { s.db with ctl := d, prev := d }
        events := s.events ++
          if d.getLsbD s.cfg.dbWrBit.val && !s.db.prev.getLsbD s.cfg.dbWrBit.val then
            [.devWrite16 (BitVec.ofNat 4 (d.toNat % 8 + if d.getLsbD s.cfg.dbOfsBit.val then 8 else 0))
              (BitVec.ofNat 16 (s.db.dhi.toNat * 256 + s.db.dlo.toNat))]
          else [] }

/-- 44_disk_bridge.md R326, R327, R329; 10_state.md R54: a rising read strobe latches the device's answer after the write
transfer of the same control write: the next answer of an attached device, a free value where the host fixed none
(notes/assumptions/5.md), 0xFFFF with no device. -/
def Obligations.RisingReadStrobeLatchesTheDevice : Prop :=
  ∀ (s : State) (d : Byte), d.getLsbD s.cfg.dbRstBit.val = false →
    d.getLsbD s.cfg.dbRdBit.val = true → s.db.prev.getLsbD s.cfg.dbRdBit.val = false →
    let sel : BitVec 4 := BitVec.ofNat 4 (d.toNat % 8 + if d.getLsbD s.cfg.dbOfsBit.val then 8 else 0)
    let latched (v : Half) (answers : List Half) (draws : Nat) : State :=
      { s with
        db := { s.db with ctl := d, prev := d, dlo := BitVec.ofNat 8 v.toNat, dhi := BitVec.ofNat 8 (v.toNat / 256) }
        dev := { s.dev with answers := answers }
        draws := draws
        events := s.events ++
          (if d.getLsbD s.cfg.dbWrBit.val && !s.db.prev.getLsbD s.cfg.dbWrBit.val then
            [.devWrite16 sel (BitVec.ofNat 16 (s.db.dhi.toNat * 256 + s.db.dlo.toNat))] else []) ++ [.devRead16 sel v] }
    (∀ v rest, s.dev.attached = true → s.dev.answers = v :: rest →
      exec (.outDbCtl d) s = .next (latched v rest s.draws)) ∧
    (s.dev.attached = true → s.dev.answers = [] →
      exec (.outDbCtl d) s = .next (latched (Config.deviceRead s.draws sel) [] (s.draws + 1))) ∧
    (s.dev.attached = false → exec (.outDbCtl d) s = .next (latched 0xFFFF s.dev.answers s.draws))

/-- 44_disk_bridge.md R331: repeated control writes of one value transfer once for each strobe bit set in it. -/
def Obligations.RepeatedControlWritesTransferOnce : Prop :=
  ∀ (s : State) (v : Byte) (n : Nat), v.getLsbD s.cfg.dbRstBit.val = false →
    (v.getLsbD s.cfg.dbWrBit.val = true → s.db.prev.getLsbD s.cfg.dbWrBit.val = false) →
    (v.getLsbD s.cfg.dbRdBit.val = true → s.db.prev.getLsbD s.cfg.dbRdBit.val = false) →
    ∃ t, execAll (List.replicate (n + 1) (.outDbCtl v)) s = some t ∧
      transferCount t = transferCount s + (v.getLsbD s.cfg.dbWrBit.val).toNat + (v.getLsbD s.cfg.dbRdBit.val).toNat

/-! The arbiter and the RETI detector. -/

/-- 45_interrupt_arbiter.md R350, R351 and R356, 43_uart.md R282: an owned line injects nothing; a free one injects the
first pending source of the priority order, and nothing when there is none; and what each source shows. -/
def Obligations.PollInjectsTheFirstPendingSource : Prop :=
  ∀ (s : State),
    (s.live ≠ none → exec .evtPoll s = .next { s with changed := false }) ∧
    (s.live = none → (∀ src ∈ s.cfg.arbOrder, offer s src = none) → exec .evtPoll s = .next { s with changed := false }) ∧
    (∀ (before after : List Source) (src : Source) (v : Byte), s.live = none →
      s.cfg.arbOrder = before ++ src :: after → (∀ x ∈ before, offer s x = none) → offer s src = some v →
      exec .evtPoll s = .next { s with changed := false, live := some src, events := s.events ++ [.inject v] }) ∧
    (s.sioAsserted = true → offer s .sio = some s.sioVec) ∧ (s.sioAsserted = false → offer s .sio = none) ∧
    (∀ (i : Nat) (n : UartUnit) (k : UartConfig), s.uarts[i]? = some n → s.cfg.uarts[i]? = some k →
      (n.uart.pendRx = true ∨ n.uart.pendThre = true ∨ n.uart.pendMs = true → offer s (.uart i) = some k.vector) ∧
      (n.uart.pendRx = false → n.uart.pendThre = false → n.uart.pendMs = false → offer s (.uart i) = none))

/-- 45_interrupt_arbiter.md R352 inside the fetch of R360: the RETI event, the live SIO's re-evaluation, the released
line, the re-poll. -/
def Obligations.ReturnSequenceReleasesTheLineAndRepolls : Prop :=
  ∀ (s : State) (a : Addr), configValid s.cfg = true → s.sniff = .afterEd → s.readLoc (translateAddr s a) = 0x4D →
    (s.live ≠ some .sio → exec (mfetchOf a) s = .next
      (poll { s with result := some 0x4D, sniff := .idle, events := s.events ++ [.reti], live := none })) ∧
    (s.live = some .sio → exec (mfetchOf a) s = .next
      (poll { s with
        result := some 0x4D, sniff := .idle, events := s.events ++ [.reti], live := none
        sioAsserted := s.sioA.pendRxa || s.sioA.pendErr
        sioVec := if s.sioA.pendRxa || s.sioA.pendErr then computeVector s.sioA s.sioB else s.sioVec
        changed := true }))

/-- 45_interrupt_arbiter.md R360, every transition but the RETI itself. -/
def Obligations.DetectorFollowsItsTable : Prop :=
  ∀ (s : State) (b : Byte),
    (s.sniff = .afterCb → sniffStep b s = { s with sniff := .idle }) ∧
    (s.sniff = .afterEd → b ≠ 0x4D → sniffStep b s = { s with sniff := .idle }) ∧
    (s.sniff = .idle ∨ s.sniff = .afterIxiy →
      (b = 0xED → sniffStep b s = { s with sniff := .afterEd }) ∧
      (b = 0xDD ∨ b = 0xFD → sniffStep b s = { s with sniff := .afterIxiy }) ∧
      (b ≠ 0xED → b ≠ 0xDD → b ≠ 0xFD → b ≠ 0xCB → sniffStep b s = { s with sniff := .idle })) ∧
    (s.sniff = .idle → b = 0xCB → sniffStep b s = { s with sniff := .afterCb }) ∧
    (s.sniff = .afterIxiy → b = 0xCB → sniffStep b s = { s with sniff := .idle })

/-- 45_interrupt_arbiter.md R363 and R367's last clause: two fetches of ED and 4D, with data reads between them, emit one
RETI. -/
def Obligations.FetchedPairEmitsOneReturnEvent : Prop :=
  ∀ (s t u v : State) (a b : Addr) (reads : List Addr), s.sniff = .idle ∨ s.sniff = .afterIxiy →
    exec (mfetchOf a) s = .next t → t.result = some 0xED → execAll (reads.map mrdOf) t = some u →
    exec (mfetchOf b) u = .next v → v.result = some 0x4D →
    retiCount t = retiCount s ∧ retiCount u = retiCount s ∧ retiCount v = retiCount s + 1

/-- 45_interrupt_arbiter.md R364, R365, R366, R368: prefixes before, prefixes between, CB-table opcodes, other ED-table
bytes, each sequence from the start of an instruction. -/
def Obligations.PrefixesNeitherHideNorFakeAReturn : Prop :=
  ∀ s : State, s.sniff = .idle →
    (∀ bs ∈ [[0xDD, 0xED, 0x4D], [0xFD, 0xED, 0x4D], [0xDD, 0xDD, 0xED, 0x4D], [0xDD, 0xCB, 0xED, 0x4D],
        [0xCB, 0xED, 0xED, 0x4D]], retiCount (sniffAll bs s) = retiCount s + 1 ∧
        ∀ n < bs.length, retiCount (sniffAll (bs.take n) s) = retiCount s) ∧
    (∀ bs ∈ [[0xED, 0xDD, 0x4D], [0xED, 0xFD, 0x4D], [0xED, 0xCB, 0x4D], [0xED, 0xED, 0x4D], [0xCB, 0xED, 0x4D]],
      retiCount (sniffAll bs s) = retiCount s) ∧
    (∀ b : Byte, b ≠ 0x4D → retiCount (sniffAll [0xED, b] s) = retiCount s)

/-- 45_interrupt_arbiter.md R362: the detector's state changes at a fetch or a reset only. -/
def Obligations.OnlyFetchesAndResetsMoveTheDetector : Prop :=
  ∀ (i : Instr) (s t : State), exec i s = .next t → isFetch i = false →
    if i = .evtReset ∨ i = .evtCpuReset then t.sniff = .idle else t.sniff = s.sniff

/-- 45_interrupt_arbiter.md R354: only a RETI or a power-on reset releases or changes the live source. -/
def Obligations.LiveSourceStaysUntilReturnOrReset : Prop :=
  ∀ (i : Instr) (s t : State) (src : Source), exec i s = .next t → s.live = some src → i ≠ .evtReset →
    retiCount t = retiCount s → t.live = some src ∧ t.events.countP Event.isInject = s.events.countP Event.isInject

/-- 45_interrupt_arbiter.md R353: since the last RETI at most one injection, and none while no source is live. Every step
whose word is no power-on reset keeps it. -/
def Obligations.AtMostOneInjectionBetweenReturns : Prop :=
  ∀ (s t : State), step s = .next t → s.nextWord ≠ some (encode s.cfg .evtReset) →
    injectsSinceReti s.events ≤ 1 → (s.live = none → injectsSinceReti s.events = 0) →
    injectsSinceReti t.events ≤ 1 ∧ (t.live = none → injectsSinceReti t.events = 0)

/-! Resets and launch. -/

/-- 70_reset_and_hazards.md R450: every register at its reset value, storage and the host side as they were. -/
def Obligations.PowerOnResetRestoresEveryRegister : Prop :=
  ∀ s : State, exec .evtReset s = .next
    { s with
      bsel := 0x00, rb := 0x00, win := 0x00
      sioA := { wr := Vector.replicate 8 0x00, ptr := 0, q := [], ovr := false, pendRxa := false, pendErr := false, arm := true }
      sioB := { wr := Vector.replicate 8 0x00, ptr := 0, q := [], ovr := false, pendRxa := false, pendErr := false, arm := true }
      sioAsserted := false, sioVec := 0x00
      uarts := s.uarts.map fun n =>
        { n with uart :=
            { rbr := 0x00, ier := 0x00, fcr := 0x00, lcr := 0x00, mcr := 0x00, lsr := 0x60, msr := s.cfg.uartMsrReset
              scr := 0x00, dll := 0x00, dlm := 0x00, pendRx := false, pendThre := false, pendMs := false } }
      db := { dlo := 0x00, dhi := 0x00, ctl := 0x00, dir := 0x00, prev := 0x00 }
      live := none, sniff := .idle, changed := false, traceMask := 0x00
      events := s.events ++ [.cpuReset] }

/-- 70_reset_and_hazards.md R452 and R453. -/
def Obligations.ButtonResetKeepsDeviceState : Prop :=
  ∀ s : State,
    (s.cfg.buttonResetsBank = false → exec .evtCpuReset s = .next
      { s with sniff := .idle, events := s.events ++ [.cpuReset] }) ∧
    (s.cfg.buttonResetsBank = true → exec .evtCpuReset s = .next
      { s with sniff := .idle, bsel := 0x00, rb := 0x00, win := 0x00, events := s.events ++ [.cpuReset] })

/-- 70_reset_and_hazards.md R457: after a power-on reset no source can become pending by any operation but a write of WR1
to WR7 or `IER`, and nothing is injected; a tick, a pulse or a poll then emits nothing at all. -/
def Obligations.NoInterruptBeforeFirmwareEnablesOne : Prop :=
  (∀ s t : State, exec .evtReset s = .next t → interruptsOff t = true) ∧
  (∀ (s t : State) (i : Instr), interruptsOff s = true → enablesInterrupts i = false →
    exec i s = .next t → interruptsOff t = true ∧ injectCount t = injectCount s) ∧
  (∀ (s t : State) (i : Instr), interruptsOff s = true → i = .evtTick ∨ i = .evtPulse ∨ i = .evtPoll →
    exec i s = .next t → interruptsOff t = true ∧ t.events = s.events)

/-- 70_reset_and_hazards.md R451 and R455; 00_scope.md R10, R11: which launches begin a run, and in which state. That an
image longer than the FLAT ROM banks is accepted up to its array and reads back in the RAM banks after them, and that a
longer one is refused through `configValid`, is the model's choice (notes/assumptions/22.md), as is the shape of the launch
record (notes/assumptions/19.md). -/
def Obligations.LaunchLoadsTheImageOrBeginsNoRun : Prop :=
  ∀ L : Launch,
    (configValid L.cfg = false → launch L = .refused .invalidConfiguration) ∧
    (configValid L.cfg = true → L.image.length ≠ L.cfg.romImageSize → launch L = .refused .wrongImageSize) ∧
    (configValid L.cfg = true → L.image.length = L.cfg.romImageSize →
      ∃ s, launch L = .next s ∧ exec .evtReset (launchState L) = .next s ∧ Inv s ∧
        ∀ k, (h : k < L.image.length) →
          (s.mem (if L.cfg.scheme = .flat then .flat else .rom)).read k = L.image[k])

/-! Decoding and steps. -/

/-- 30_encoding.md R100, R109, R113: decoding the word of a well-formed operation gives the operation back, for every
valid configuration and every operand. -/
def Obligations.DecodeOfEncodeIsTheOperation : Prop :=
  ∀ (v : DecodeView) (i : Instr), configValid v.cfg = true → i.wellFormed v = true →
    decode v (encode v.cfg i) = .ok i

/-- 30_encoding.md R100, R106: what is decoded is well-formed, and its own word has the kind and the data byte of the
word that was decoded, and its address where that is a memory address or an event code. -/
def Obligations.DecodedOperationEncodesTheSameFields : Prop :=
  ∀ (v : DecodeView) (t : TWord) (i : Instr), configValid v.cfg = true → decode v t = .ok i →
    i.wellFormed v = true ∧ wordKind (encode v.cfg i) = wordKind t ∧ wordData (encode v.cfg i) = wordData t ∧
    (wordKind t ≠ 4#3 → wordKind t ≠ 5#3 → encode v.cfg i = t) ∧
    (wordKind t = 4#3 ∨ wordKind t = 5#3 →
      (∀ o, lookupPort v.cfg (addrPort (wordAddr t)) ≠ some (.disk, o)) →
      addrPort (wordAddr (encode v.cfg i)) = addrPort (wordAddr t))

/-- 30_encoding.md R105: exactly the reserved words have no operation. -/
def Obligations.ExactlyTheReservedWordsAreRejected : Prop :=
  ∀ (v : DecodeView) (t : TWord),
    (∃ r, decode v t = .error r) ↔
      wordKind t = 3#3 ∨ wordKind t = 7#3 ∨
      (wordKind t = 6#3 ∧ (4 < (wordAddr t).toNat ∨ wordData t ≠ 0#8)) ∨
      ((wordKind t = 0#3 ∨ wordKind t = 1#3 ∨ wordKind t = 4#3) ∧ wordData t ≠ 0#8)

/-- 30_encoding.md R100, R102, R109: words written out bit by bit decode to the operation they stand for; and
41_port_dispatch.md R179: bits 15:8 of an I/O address do not matter. -/
def Obligations.SampleWordsDecodeToTheirOperation : Prop :=
  decode resetView 0b000_0001001000110100_00000000#27 = .ok (.mrdLo 0x1234) ∧
  decode resetView 0b001_1000000100000000_00000000#27 = .ok (.mfetchHi 0x0100) ∧
  decode resetView 0b010_1000000000000000_10101010#27 = .ok (.mwrHi 0x0000 0xAA) ∧
  decode resetView 0b100_0000000010000001_00000000#27 = .ok (.inSioData .a) ∧
  decode resetView 0b101_0000000001111000_00000101#27 = .ok (.outBsel 0x05) ∧
  decode resetView 0b101_0000000010100001_00000011#27 = .ok (.outUartIer 0 0x03) ∧
  decode resetView 0b101_0000000000100010_00100001#27 = .ok (.outDbCtl 0x21) ∧
  decode resetView 0b110_0000000000000010_00000000#27 = .ok .evtPoll ∧
  ∀ (v : DecodeView) (k : BitVec 3) (x y p d : Byte), k = 4#3 ∨ k = 5#3 →
    decode v (packWord k (x ++ p) d) = decode v (packWord k (y ++ p) d)

/-- 00_scope.md R14, 30_encoding.md R104, R105: a step takes the next word, decodes it in the state's view and runs the
decoded operation, with the byte of the operation before gone from the bus; a reserved word is refused. -/
def Obligations.StepRunsTheDecodedOperation : Prop :=
  ∀ (s : State) (t : TWord) (rest : List Input), configValid s.cfg = true → s.inbox = .word t :: rest →
    (∀ i, decode s.view t = .ok i → step s = exec i { s with inbox := rest, result := none }) ∧
    (∀ r, decode s.view t = .error r → step s = .refused (.reservedWord r))

/-- 00_scope.md R8: with no input pending nothing changes, and a host action changes the host side only. That a state
holds its pending inputs is the model's choice (notes/assumptions/7.md). -/
def Obligations.OnlyAgentsMoveTheMachine : Prop :=
  ∀ (s : State), configValid s.cfg = true →
    (s.inbox = [] → step s = .next s) ∧
    (∀ (a : HostAction) (rest : List Input), s.inbox = .host a :: rest →
      ∃ t, step s = .next t ∧ t.uarts.map UartUnit.uart = s.uarts.map UartUnit.uart ∧
        t = { s with inbox := rest, lineA := t.lineA, lineB := t.lineB, uarts := t.uarts, dev := t.dev })

/-! The whole machine. -/

/-- 42_serial_fifo.md R198, 43_uart.md R285, 10_state.md R47 and the canonical form of storage: every step keeps the
invariant. -/
def Obligations.EveryStepKeepsTheInvariant : Prop :=
  ∀ (s t : State), Inv s → step s = .next t → Inv t

/-- The reset state meets the invariant. -/
def Obligations.ResetStateMeetsTheInvariant : Prop := Inv State.reset

/-- 60_exceptions.md R410: under the invariant and a working host, every operation a word can select has a next state. -/
def Obligations.NoOperationHasAnErrorOutcome : Prop :=
  ∀ (s : State) (i : Instr), Inv s → hostHealthy s = true → i.wellFormed s.view = true → ∃ t, exec i s = .next t
end

