-- ==== Sys2Proof/Laws/State.lean ====
section
/-! SUPPORT. One lemma per field and update of the state, so that no proof unfolds a record update. -/

namespace Sys2Proof.Machine

variable (s : State)

/-! Updates of `s.ret b`. -/

@[simp] theorem State.ret_cfg (b : Byte) : (s.ret b).cfg = s.cfg := rfl
@[simp] theorem State.ret_flat (b : Byte) : (s.ret b).flat = s.flat := rfl
@[simp] theorem State.ret_rom (b : Byte) : (s.ret b).rom = s.rom := rfl
@[simp] theorem State.ret_ram (b : Byte) : (s.ret b).ram = s.ram := rfl
@[simp] theorem State.ret_bsel (b : Byte) : (s.ret b).bsel = s.bsel := rfl
@[simp] theorem State.ret_rb (b : Byte) : (s.ret b).rb = s.rb := rfl
@[simp] theorem State.ret_win (b : Byte) : (s.ret b).win = s.win := rfl
@[simp] theorem State.ret_sioA (b : Byte) : (s.ret b).sioA = s.sioA := rfl
@[simp] theorem State.ret_sioB (b : Byte) : (s.ret b).sioB = s.sioB := rfl
@[simp] theorem State.ret_sioAsserted (b : Byte) : (s.ret b).sioAsserted = s.sioAsserted := rfl
@[simp] theorem State.ret_sioVec (b : Byte) : (s.ret b).sioVec = s.sioVec := rfl
@[simp] theorem State.ret_uarts (b : Byte) : (s.ret b).uarts = s.uarts := rfl
@[simp] theorem State.ret_db (b : Byte) : (s.ret b).db = s.db := rfl
@[simp] theorem State.ret_live (b : Byte) : (s.ret b).live = s.live := rfl
@[simp] theorem State.ret_sniff (b : Byte) : (s.ret b).sniff = s.sniff := rfl
@[simp] theorem State.ret_changed (b : Byte) : (s.ret b).changed = s.changed := rfl
@[simp] theorem State.ret_traceMask (b : Byte) : (s.ret b).traceMask = s.traceMask := rfl
@[simp] theorem State.ret_lineA (b : Byte) : (s.ret b).lineA = s.lineA := rfl
@[simp] theorem State.ret_lineB (b : Byte) : (s.ret b).lineB = s.lineB := rfl
@[simp] theorem State.ret_dev (b : Byte) : (s.ret b).dev = s.dev := rfl
@[simp] theorem State.ret_inbox (b : Byte) : (s.ret b).inbox = s.inbox := rfl
@[simp] theorem State.ret_result (b : Byte) : (s.ret b).result = some b := rfl
@[simp] theorem State.ret_events (b : Byte) : (s.ret b).events = s.events := rfl
@[simp] theorem State.ret_draws (b : Byte) : (s.ret b).draws = s.draws := rfl

/-! Updates of `s.emit e`. -/

@[simp] theorem State.emit_cfg (e : Event) : (s.emit e).cfg = s.cfg := rfl
@[simp] theorem State.emit_flat (e : Event) : (s.emit e).flat = s.flat := rfl
@[simp] theorem State.emit_rom (e : Event) : (s.emit e).rom = s.rom := rfl
@[simp] theorem State.emit_ram (e : Event) : (s.emit e).ram = s.ram := rfl
@[simp] theorem State.emit_bsel (e : Event) : (s.emit e).bsel = s.bsel := rfl
@[simp] theorem State.emit_rb (e : Event) : (s.emit e).rb = s.rb := rfl
@[simp] theorem State.emit_win (e : Event) : (s.emit e).win = s.win := rfl
@[simp] theorem State.emit_sioA (e : Event) : (s.emit e).sioA = s.sioA := rfl
@[simp] theorem State.emit_sioB (e : Event) : (s.emit e).sioB = s.sioB := rfl
@[simp] theorem State.emit_sioAsserted (e : Event) : (s.emit e).sioAsserted = s.sioAsserted := rfl
@[simp] theorem State.emit_sioVec (e : Event) : (s.emit e).sioVec = s.sioVec := rfl
@[simp] theorem State.emit_uarts (e : Event) : (s.emit e).uarts = s.uarts := rfl
@[simp] theorem State.emit_db (e : Event) : (s.emit e).db = s.db := rfl
@[simp] theorem State.emit_live (e : Event) : (s.emit e).live = s.live := rfl
@[simp] theorem State.emit_sniff (e : Event) : (s.emit e).sniff = s.sniff := rfl
@[simp] theorem State.emit_changed (e : Event) : (s.emit e).changed = s.changed := rfl
@[simp] theorem State.emit_traceMask (e : Event) : (s.emit e).traceMask = s.traceMask := rfl
@[simp] theorem State.emit_lineA (e : Event) : (s.emit e).lineA = s.lineA := rfl
@[simp] theorem State.emit_lineB (e : Event) : (s.emit e).lineB = s.lineB := rfl
@[simp] theorem State.emit_dev (e : Event) : (s.emit e).dev = s.dev := rfl
@[simp] theorem State.emit_inbox (e : Event) : (s.emit e).inbox = s.inbox := rfl
@[simp] theorem State.emit_result (e : Event) : (s.emit e).result = s.result := rfl
@[simp] theorem State.emit_events (e : Event) : (s.emit e).events = s.events ++ [e] := rfl
@[simp] theorem State.emit_draws (e : Event) : (s.emit e).draws = s.draws := rfl

/-! Updates of `s.retDraw`. -/

@[simp] theorem State.retDraw_cfg : (s.retDraw).cfg = s.cfg := rfl
@[simp] theorem State.retDraw_flat : (s.retDraw).flat = s.flat := rfl
@[simp] theorem State.retDraw_rom : (s.retDraw).rom = s.rom := rfl
@[simp] theorem State.retDraw_ram : (s.retDraw).ram = s.ram := rfl
@[simp] theorem State.retDraw_bsel : (s.retDraw).bsel = s.bsel := rfl
@[simp] theorem State.retDraw_rb : (s.retDraw).rb = s.rb := rfl
@[simp] theorem State.retDraw_win : (s.retDraw).win = s.win := rfl
@[simp] theorem State.retDraw_sioA : (s.retDraw).sioA = s.sioA := rfl
@[simp] theorem State.retDraw_sioB : (s.retDraw).sioB = s.sioB := rfl
@[simp] theorem State.retDraw_sioAsserted : (s.retDraw).sioAsserted = s.sioAsserted := rfl
@[simp] theorem State.retDraw_sioVec : (s.retDraw).sioVec = s.sioVec := rfl
@[simp] theorem State.retDraw_uarts : (s.retDraw).uarts = s.uarts := rfl
@[simp] theorem State.retDraw_db : (s.retDraw).db = s.db := rfl
@[simp] theorem State.retDraw_live : (s.retDraw).live = s.live := rfl
@[simp] theorem State.retDraw_sniff : (s.retDraw).sniff = s.sniff := rfl
@[simp] theorem State.retDraw_changed : (s.retDraw).changed = s.changed := rfl
@[simp] theorem State.retDraw_traceMask : (s.retDraw).traceMask = s.traceMask := rfl
@[simp] theorem State.retDraw_lineA : (s.retDraw).lineA = s.lineA := rfl
@[simp] theorem State.retDraw_lineB : (s.retDraw).lineB = s.lineB := rfl
@[simp] theorem State.retDraw_dev : (s.retDraw).dev = s.dev := rfl
@[simp] theorem State.retDraw_inbox : (s.retDraw).inbox = s.inbox := rfl
@[simp] theorem State.retDraw_result : (s.retDraw).result = some (Config.drawByte s.draws) := rfl
@[simp] theorem State.retDraw_events : (s.retDraw).events = s.events := rfl
@[simp] theorem State.retDraw_draws : (s.retDraw).draws = s.draws + 1 := rfl

/-! Updates of `s.markChanged c`. -/

@[simp] theorem State.markChanged_cfg (c : Bool) : (s.markChanged c).cfg = s.cfg := rfl
@[simp] theorem State.markChanged_flat (c : Bool) : (s.markChanged c).flat = s.flat := rfl
@[simp] theorem State.markChanged_rom (c : Bool) : (s.markChanged c).rom = s.rom := rfl
@[simp] theorem State.markChanged_ram (c : Bool) : (s.markChanged c).ram = s.ram := rfl
@[simp] theorem State.markChanged_bsel (c : Bool) : (s.markChanged c).bsel = s.bsel := rfl
@[simp] theorem State.markChanged_rb (c : Bool) : (s.markChanged c).rb = s.rb := rfl
@[simp] theorem State.markChanged_win (c : Bool) : (s.markChanged c).win = s.win := rfl
@[simp] theorem State.markChanged_sioA (c : Bool) : (s.markChanged c).sioA = s.sioA := rfl
@[simp] theorem State.markChanged_sioB (c : Bool) : (s.markChanged c).sioB = s.sioB := rfl
@[simp] theorem State.markChanged_sioAsserted (c : Bool) : (s.markChanged c).sioAsserted = s.sioAsserted := rfl
@[simp] theorem State.markChanged_sioVec (c : Bool) : (s.markChanged c).sioVec = s.sioVec := rfl
@[simp] theorem State.markChanged_uarts (c : Bool) : (s.markChanged c).uarts = s.uarts := rfl
@[simp] theorem State.markChanged_db (c : Bool) : (s.markChanged c).db = s.db := rfl
@[simp] theorem State.markChanged_live (c : Bool) : (s.markChanged c).live = s.live := rfl
@[simp] theorem State.markChanged_sniff (c : Bool) : (s.markChanged c).sniff = s.sniff := rfl
@[simp] theorem State.markChanged_changed (c : Bool) : (s.markChanged c).changed = (s.changed || c) := rfl
@[simp] theorem State.markChanged_traceMask (c : Bool) : (s.markChanged c).traceMask = s.traceMask := rfl
@[simp] theorem State.markChanged_lineA (c : Bool) : (s.markChanged c).lineA = s.lineA := rfl
@[simp] theorem State.markChanged_lineB (c : Bool) : (s.markChanged c).lineB = s.lineB := rfl
@[simp] theorem State.markChanged_dev (c : Bool) : (s.markChanged c).dev = s.dev := rfl
@[simp] theorem State.markChanged_inbox (c : Bool) : (s.markChanged c).inbox = s.inbox := rfl
@[simp] theorem State.markChanged_result (c : Bool) : (s.markChanged c).result = s.result := rfl
@[simp] theorem State.markChanged_events (c : Bool) : (s.markChanged c).events = s.events := rfl
@[simp] theorem State.markChanged_draws (c : Bool) : (s.markChanged c).draws = s.draws := rfl

/-! Updates of `s.assertSio`. -/

@[simp] theorem State.assertSio_cfg : (s.assertSio).cfg = s.cfg := rfl
@[simp] theorem State.assertSio_flat : (s.assertSio).flat = s.flat := rfl
@[simp] theorem State.assertSio_rom : (s.assertSio).rom = s.rom := rfl
@[simp] theorem State.assertSio_ram : (s.assertSio).ram = s.ram := rfl
@[simp] theorem State.assertSio_bsel : (s.assertSio).bsel = s.bsel := rfl
@[simp] theorem State.assertSio_rb : (s.assertSio).rb = s.rb := rfl
@[simp] theorem State.assertSio_win : (s.assertSio).win = s.win := rfl
@[simp] theorem State.assertSio_sioA : (s.assertSio).sioA = s.sioA := rfl
@[simp] theorem State.assertSio_sioB : (s.assertSio).sioB = s.sioB := rfl
@[simp] theorem State.assertSio_sioAsserted : (s.assertSio).sioAsserted = true := rfl
@[simp] theorem State.assertSio_sioVec : (s.assertSio).sioVec = computeVector s.sioA s.sioB := rfl
@[simp] theorem State.assertSio_uarts : (s.assertSio).uarts = s.uarts := rfl
@[simp] theorem State.assertSio_db : (s.assertSio).db = s.db := rfl
@[simp] theorem State.assertSio_live : (s.assertSio).live = s.live := rfl
@[simp] theorem State.assertSio_sniff : (s.assertSio).sniff = s.sniff := rfl
@[simp] theorem State.assertSio_changed : (s.assertSio).changed = s.changed := rfl
@[simp] theorem State.assertSio_traceMask : (s.assertSio).traceMask = s.traceMask := rfl
@[simp] theorem State.assertSio_lineA : (s.assertSio).lineA = s.lineA := rfl
@[simp] theorem State.assertSio_lineB : (s.assertSio).lineB = s.lineB := rfl
@[simp] theorem State.assertSio_dev : (s.assertSio).dev = s.dev := rfl
@[simp] theorem State.assertSio_inbox : (s.assertSio).inbox = s.inbox := rfl
@[simp] theorem State.assertSio_result : (s.assertSio).result = s.result := rfl
@[simp] theorem State.assertSio_events : (s.assertSio).events = s.events := rfl
@[simp] theorem State.assertSio_draws : (s.assertSio).draws = s.draws := rfl

/-! Updates of `s.setUart i n`. -/

@[simp] theorem State.setUart_cfg (i : Nat) (n : UartUnit) : (s.setUart i n).cfg = s.cfg := rfl
@[simp] theorem State.setUart_flat (i : Nat) (n : UartUnit) : (s.setUart i n).flat = s.flat := rfl
@[simp] theorem State.setUart_rom (i : Nat) (n : UartUnit) : (s.setUart i n).rom = s.rom := rfl
@[simp] theorem State.setUart_ram (i : Nat) (n : UartUnit) : (s.setUart i n).ram = s.ram := rfl
@[simp] theorem State.setUart_bsel (i : Nat) (n : UartUnit) : (s.setUart i n).bsel = s.bsel := rfl
@[simp] theorem State.setUart_rb (i : Nat) (n : UartUnit) : (s.setUart i n).rb = s.rb := rfl
@[simp] theorem State.setUart_win (i : Nat) (n : UartUnit) : (s.setUart i n).win = s.win := rfl
@[simp] theorem State.setUart_sioA (i : Nat) (n : UartUnit) : (s.setUart i n).sioA = s.sioA := rfl
@[simp] theorem State.setUart_sioB (i : Nat) (n : UartUnit) : (s.setUart i n).sioB = s.sioB := rfl
@[simp] theorem State.setUart_sioAsserted (i : Nat) (n : UartUnit) : (s.setUart i n).sioAsserted = s.sioAsserted := rfl
@[simp] theorem State.setUart_sioVec (i : Nat) (n : UartUnit) : (s.setUart i n).sioVec = s.sioVec := rfl
@[simp] theorem State.setUart_uarts (i : Nat) (n : UartUnit) : (s.setUart i n).uarts = s.uarts.set i n := rfl
@[simp] theorem State.setUart_db (i : Nat) (n : UartUnit) : (s.setUart i n).db = s.db := rfl
@[simp] theorem State.setUart_live (i : Nat) (n : UartUnit) : (s.setUart i n).live = s.live := rfl
@[simp] theorem State.setUart_sniff (i : Nat) (n : UartUnit) : (s.setUart i n).sniff = s.sniff := rfl
@[simp] theorem State.setUart_changed (i : Nat) (n : UartUnit) : (s.setUart i n).changed = s.changed := rfl
@[simp] theorem State.setUart_traceMask (i : Nat) (n : UartUnit) : (s.setUart i n).traceMask = s.traceMask := rfl
@[simp] theorem State.setUart_lineA (i : Nat) (n : UartUnit) : (s.setUart i n).lineA = s.lineA := rfl
@[simp] theorem State.setUart_lineB (i : Nat) (n : UartUnit) : (s.setUart i n).lineB = s.lineB := rfl
@[simp] theorem State.setUart_dev (i : Nat) (n : UartUnit) : (s.setUart i n).dev = s.dev := rfl
@[simp] theorem State.setUart_inbox (i : Nat) (n : UartUnit) : (s.setUart i n).inbox = s.inbox := rfl
@[simp] theorem State.setUart_result (i : Nat) (n : UartUnit) : (s.setUart i n).result = s.result := rfl
@[simp] theorem State.setUart_events (i : Nat) (n : UartUnit) : (s.setUart i n).events = s.events := rfl
@[simp] theorem State.setUart_draws (i : Nat) (n : UartUnit) : (s.setUart i n).draws = s.draws := rfl

/-! Updates of `s.setChan c ch`. -/

@[simp] theorem State.setChan_cfg (c : Channel) (ch : SioChannel) : (s.setChan c ch).cfg = s.cfg := by cases c <;> rfl
@[simp] theorem State.setChan_flat (c : Channel) (ch : SioChannel) : (s.setChan c ch).flat = s.flat := by cases c <;> rfl
@[simp] theorem State.setChan_rom (c : Channel) (ch : SioChannel) : (s.setChan c ch).rom = s.rom := by cases c <;> rfl
@[simp] theorem State.setChan_ram (c : Channel) (ch : SioChannel) : (s.setChan c ch).ram = s.ram := by cases c <;> rfl
@[simp] theorem State.setChan_bsel (c : Channel) (ch : SioChannel) : (s.setChan c ch).bsel = s.bsel := by cases c <;> rfl
@[simp] theorem State.setChan_rb (c : Channel) (ch : SioChannel) : (s.setChan c ch).rb = s.rb := by cases c <;> rfl
@[simp] theorem State.setChan_win (c : Channel) (ch : SioChannel) : (s.setChan c ch).win = s.win := by cases c <;> rfl
@[simp] theorem State.setChan_sioAsserted (c : Channel) (ch : SioChannel) : (s.setChan c ch).sioAsserted = s.sioAsserted := by cases c <;> rfl
@[simp] theorem State.setChan_sioVec (c : Channel) (ch : SioChannel) : (s.setChan c ch).sioVec = s.sioVec := by cases c <;> rfl
@[simp] theorem State.setChan_uarts (c : Channel) (ch : SioChannel) : (s.setChan c ch).uarts = s.uarts := by cases c <;> rfl
@[simp] theorem State.setChan_db (c : Channel) (ch : SioChannel) : (s.setChan c ch).db = s.db := by cases c <;> rfl
@[simp] theorem State.setChan_live (c : Channel) (ch : SioChannel) : (s.setChan c ch).live = s.live := by cases c <;> rfl
@[simp] theorem State.setChan_sniff (c : Channel) (ch : SioChannel) : (s.setChan c ch).sniff = s.sniff := by cases c <;> rfl
@[simp] theorem State.setChan_changed (c : Channel) (ch : SioChannel) : (s.setChan c ch).changed = s.changed := by cases c <;> rfl
@[simp] theorem State.setChan_traceMask (c : Channel) (ch : SioChannel) : (s.setChan c ch).traceMask = s.traceMask := by cases c <;> rfl
@[simp] theorem State.setChan_lineA (c : Channel) (ch : SioChannel) : (s.setChan c ch).lineA = s.lineA := by cases c <;> rfl
@[simp] theorem State.setChan_lineB (c : Channel) (ch : SioChannel) : (s.setChan c ch).lineB = s.lineB := by cases c <;> rfl
@[simp] theorem State.setChan_dev (c : Channel) (ch : SioChannel) : (s.setChan c ch).dev = s.dev := by cases c <;> rfl
@[simp] theorem State.setChan_inbox (c : Channel) (ch : SioChannel) : (s.setChan c ch).inbox = s.inbox := by cases c <;> rfl
@[simp] theorem State.setChan_result (c : Channel) (ch : SioChannel) : (s.setChan c ch).result = s.result := by cases c <;> rfl
@[simp] theorem State.setChan_events (c : Channel) (ch : SioChannel) : (s.setChan c ch).events = s.events := by cases c <;> rfl
@[simp] theorem State.setChan_draws (c : Channel) (ch : SioChannel) : (s.setChan c ch).draws = s.draws := by cases c <;> rfl

/-! Updates of `s.setSioLine c l`. -/

@[simp] theorem State.setSioLine_cfg (c : Channel) (l : HostLine) : (s.setSioLine c l).cfg = s.cfg := by cases c <;> rfl
@[simp] theorem State.setSioLine_flat (c : Channel) (l : HostLine) : (s.setSioLine c l).flat = s.flat := by cases c <;> rfl
@[simp] theorem State.setSioLine_rom (c : Channel) (l : HostLine) : (s.setSioLine c l).rom = s.rom := by cases c <;> rfl
@[simp] theorem State.setSioLine_ram (c : Channel) (l : HostLine) : (s.setSioLine c l).ram = s.ram := by cases c <;> rfl
@[simp] theorem State.setSioLine_bsel (c : Channel) (l : HostLine) : (s.setSioLine c l).bsel = s.bsel := by cases c <;> rfl
@[simp] theorem State.setSioLine_rb (c : Channel) (l : HostLine) : (s.setSioLine c l).rb = s.rb := by cases c <;> rfl
@[simp] theorem State.setSioLine_win (c : Channel) (l : HostLine) : (s.setSioLine c l).win = s.win := by cases c <;> rfl
@[simp] theorem State.setSioLine_sioA (c : Channel) (l : HostLine) : (s.setSioLine c l).sioA = s.sioA := by cases c <;> rfl
@[simp] theorem State.setSioLine_sioB (c : Channel) (l : HostLine) : (s.setSioLine c l).sioB = s.sioB := by cases c <;> rfl
@[simp] theorem State.setSioLine_sioAsserted (c : Channel) (l : HostLine) : (s.setSioLine c l).sioAsserted = s.sioAsserted := by cases c <;> rfl
@[simp] theorem State.setSioLine_sioVec (c : Channel) (l : HostLine) : (s.setSioLine c l).sioVec = s.sioVec := by cases c <;> rfl
@[simp] theorem State.setSioLine_uarts (c : Channel) (l : HostLine) : (s.setSioLine c l).uarts = s.uarts := by cases c <;> rfl
@[simp] theorem State.setSioLine_db (c : Channel) (l : HostLine) : (s.setSioLine c l).db = s.db := by cases c <;> rfl
@[simp] theorem State.setSioLine_live (c : Channel) (l : HostLine) : (s.setSioLine c l).live = s.live := by cases c <;> rfl
@[simp] theorem State.setSioLine_sniff (c : Channel) (l : HostLine) : (s.setSioLine c l).sniff = s.sniff := by cases c <;> rfl
@[simp] theorem State.setSioLine_changed (c : Channel) (l : HostLine) : (s.setSioLine c l).changed = s.changed := by cases c <;> rfl
@[simp] theorem State.setSioLine_traceMask (c : Channel) (l : HostLine) : (s.setSioLine c l).traceMask = s.traceMask := by cases c <;> rfl
@[simp] theorem State.setSioLine_dev (c : Channel) (l : HostLine) : (s.setSioLine c l).dev = s.dev := by cases c <;> rfl
@[simp] theorem State.setSioLine_inbox (c : Channel) (l : HostLine) : (s.setSioLine c l).inbox = s.inbox := by cases c <;> rfl
@[simp] theorem State.setSioLine_result (c : Channel) (l : HostLine) : (s.setSioLine c l).result = s.result := by cases c <;> rfl
@[simp] theorem State.setSioLine_events (c : Channel) (l : HostLine) : (s.setSioLine c l).events = s.events := by cases c <;> rfl
@[simp] theorem State.setSioLine_draws (c : Channel) (l : HostLine) : (s.setSioLine c l).draws = s.draws := by cases c <;> rfl

/-! Updates of `s.setMem a m`. -/

@[simp] theorem State.setMem_cfg (a : StoreArray) (m : Memory) : (s.setMem a m).cfg = s.cfg := by cases a <;> rfl
@[simp] theorem State.setMem_bsel (a : StoreArray) (m : Memory) : (s.setMem a m).bsel = s.bsel := by cases a <;> rfl
@[simp] theorem State.setMem_rb (a : StoreArray) (m : Memory) : (s.setMem a m).rb = s.rb := by cases a <;> rfl
@[simp] theorem State.setMem_win (a : StoreArray) (m : Memory) : (s.setMem a m).win = s.win := by cases a <;> rfl
@[simp] theorem State.setMem_sioA (a : StoreArray) (m : Memory) : (s.setMem a m).sioA = s.sioA := by cases a <;> rfl
@[simp] theorem State.setMem_sioB (a : StoreArray) (m : Memory) : (s.setMem a m).sioB = s.sioB := by cases a <;> rfl
@[simp] theorem State.setMem_sioAsserted (a : StoreArray) (m : Memory) : (s.setMem a m).sioAsserted = s.sioAsserted := by cases a <;> rfl
@[simp] theorem State.setMem_sioVec (a : StoreArray) (m : Memory) : (s.setMem a m).sioVec = s.sioVec := by cases a <;> rfl
@[simp] theorem State.setMem_uarts (a : StoreArray) (m : Memory) : (s.setMem a m).uarts = s.uarts := by cases a <;> rfl
@[simp] theorem State.setMem_db (a : StoreArray) (m : Memory) : (s.setMem a m).db = s.db := by cases a <;> rfl
@[simp] theorem State.setMem_live (a : StoreArray) (m : Memory) : (s.setMem a m).live = s.live := by cases a <;> rfl
@[simp] theorem State.setMem_sniff (a : StoreArray) (m : Memory) : (s.setMem a m).sniff = s.sniff := by cases a <;> rfl
@[simp] theorem State.setMem_changed (a : StoreArray) (m : Memory) : (s.setMem a m).changed = s.changed := by cases a <;> rfl
@[simp] theorem State.setMem_traceMask (a : StoreArray) (m : Memory) : (s.setMem a m).traceMask = s.traceMask := by cases a <;> rfl
@[simp] theorem State.setMem_lineA (a : StoreArray) (m : Memory) : (s.setMem a m).lineA = s.lineA := by cases a <;> rfl
@[simp] theorem State.setMem_lineB (a : StoreArray) (m : Memory) : (s.setMem a m).lineB = s.lineB := by cases a <;> rfl
@[simp] theorem State.setMem_dev (a : StoreArray) (m : Memory) : (s.setMem a m).dev = s.dev := by cases a <;> rfl
@[simp] theorem State.setMem_inbox (a : StoreArray) (m : Memory) : (s.setMem a m).inbox = s.inbox := by cases a <;> rfl
@[simp] theorem State.setMem_result (a : StoreArray) (m : Memory) : (s.setMem a m).result = s.result := by cases a <;> rfl
@[simp] theorem State.setMem_events (a : StoreArray) (m : Memory) : (s.setMem a m).events = s.events := by cases a <;> rfl
@[simp] theorem State.setMem_draws (a : StoreArray) (m : Memory) : (s.setMem a m).draws = s.draws := by cases a <;> rfl

/-! Updates of `s.writeLoc l d`. -/

@[simp] theorem State.writeLoc_cfg (l : Loc) (d : Byte) : (s.writeLoc l d).cfg = s.cfg := by cases l with | mk a _ _ => cases a <;> rfl
@[simp] theorem State.writeLoc_bsel (l : Loc) (d : Byte) : (s.writeLoc l d).bsel = s.bsel := by cases l with | mk a _ _ => cases a <;> rfl
@[simp] theorem State.writeLoc_rb (l : Loc) (d : Byte) : (s.writeLoc l d).rb = s.rb := by cases l with | mk a _ _ => cases a <;> rfl
@[simp] theorem State.writeLoc_win (l : Loc) (d : Byte) : (s.writeLoc l d).win = s.win := by cases l with | mk a _ _ => cases a <;> rfl
@[simp] theorem State.writeLoc_sioA (l : Loc) (d : Byte) : (s.writeLoc l d).sioA = s.sioA := by cases l with | mk a _ _ => cases a <;> rfl
@[simp] theorem State.writeLoc_sioB (l : Loc) (d : Byte) : (s.writeLoc l d).sioB = s.sioB := by cases l with | mk a _ _ => cases a <;> rfl
@[simp] theorem State.writeLoc_sioAsserted (l : Loc) (d : Byte) : (s.writeLoc l d).sioAsserted = s.sioAsserted := by cases l with | mk a _ _ => cases a <;> rfl
@[simp] theorem State.writeLoc_sioVec (l : Loc) (d : Byte) : (s.writeLoc l d).sioVec = s.sioVec := by cases l with | mk a _ _ => cases a <;> rfl
@[simp] theorem State.writeLoc_uarts (l : Loc) (d : Byte) : (s.writeLoc l d).uarts = s.uarts := by cases l with | mk a _ _ => cases a <;> rfl
@[simp] theorem State.writeLoc_db (l : Loc) (d : Byte) : (s.writeLoc l d).db = s.db := by cases l with | mk a _ _ => cases a <;> rfl
@[simp] theorem State.writeLoc_live (l : Loc) (d : Byte) : (s.writeLoc l d).live = s.live := by cases l with | mk a _ _ => cases a <;> rfl
@[simp] theorem State.writeLoc_sniff (l : Loc) (d : Byte) : (s.writeLoc l d).sniff = s.sniff := by cases l with | mk a _ _ => cases a <;> rfl
@[simp] theorem State.writeLoc_changed (l : Loc) (d : Byte) : (s.writeLoc l d).changed = s.changed := by cases l with | mk a _ _ => cases a <;> rfl
@[simp] theorem State.writeLoc_traceMask (l : Loc) (d : Byte) : (s.writeLoc l d).traceMask = s.traceMask := by cases l with | mk a _ _ => cases a <;> rfl
@[simp] theorem State.writeLoc_lineA (l : Loc) (d : Byte) : (s.writeLoc l d).lineA = s.lineA := by cases l with | mk a _ _ => cases a <;> rfl
@[simp] theorem State.writeLoc_lineB (l : Loc) (d : Byte) : (s.writeLoc l d).lineB = s.lineB := by cases l with | mk a _ _ => cases a <;> rfl
@[simp] theorem State.writeLoc_dev (l : Loc) (d : Byte) : (s.writeLoc l d).dev = s.dev := by cases l with | mk a _ _ => cases a <;> rfl
@[simp] theorem State.writeLoc_inbox (l : Loc) (d : Byte) : (s.writeLoc l d).inbox = s.inbox := by cases l with | mk a _ _ => cases a <;> rfl
@[simp] theorem State.writeLoc_result (l : Loc) (d : Byte) : (s.writeLoc l d).result = s.result := by cases l with | mk a _ _ => cases a <;> rfl
@[simp] theorem State.writeLoc_events (l : Loc) (d : Byte) : (s.writeLoc l d).events = s.events := by cases l with | mk a _ _ => cases a <;> rfl
@[simp] theorem State.writeLoc_draws (l : Loc) (d : Byte) : (s.writeLoc l d).draws = s.draws := by cases l with | mk a _ _ => cases a <;> rfl

/-! Updates of `s.withFetchWord n w`. -/

@[simp] theorem State.withFetchWord_cfg (n w : Nat) : (s.withFetchWord n w).cfg = s.cfg := rfl
@[simp] theorem State.withFetchWord_flat (n w : Nat) : (s.withFetchWord n w).flat = s.flat := rfl
@[simp] theorem State.withFetchWord_rom (n w : Nat) : (s.withFetchWord n w).rom = s.rom := rfl
@[simp] theorem State.withFetchWord_ram (n w : Nat) : (s.withFetchWord n w).ram = s.ram := rfl
@[simp] theorem State.withFetchWord_bsel (n w : Nat) : (s.withFetchWord n w).bsel = s.bsel := rfl
@[simp] theorem State.withFetchWord_rb (n w : Nat) : (s.withFetchWord n w).rb = s.rb := rfl
@[simp] theorem State.withFetchWord_win (n w : Nat) : (s.withFetchWord n w).win = s.win := rfl
@[simp] theorem State.withFetchWord_sioA (n w : Nat) : (s.withFetchWord n w).sioA = s.sioA := rfl
@[simp] theorem State.withFetchWord_sioB (n w : Nat) : (s.withFetchWord n w).sioB = s.sioB := rfl
@[simp] theorem State.withFetchWord_sioAsserted (n w : Nat) : (s.withFetchWord n w).sioAsserted = s.sioAsserted := rfl
@[simp] theorem State.withFetchWord_sioVec (n w : Nat) : (s.withFetchWord n w).sioVec = s.sioVec := rfl
@[simp] theorem State.withFetchWord_uarts (n w : Nat) : (s.withFetchWord n w).uarts = s.uarts := rfl
@[simp] theorem State.withFetchWord_db (n w : Nat) : (s.withFetchWord n w).db = s.db := rfl
@[simp] theorem State.withFetchWord_live (n w : Nat) : (s.withFetchWord n w).live = s.live := rfl
@[simp] theorem State.withFetchWord_sniff (n w : Nat) : (s.withFetchWord n w).sniff = s.sniff := rfl
@[simp] theorem State.withFetchWord_changed (n w : Nat) : (s.withFetchWord n w).changed = s.changed := rfl
@[simp] theorem State.withFetchWord_traceMask (n w : Nat) : (s.withFetchWord n w).traceMask = s.traceMask := rfl
@[simp] theorem State.withFetchWord_lineA (n w : Nat) : (s.withFetchWord n w).lineA = s.lineA := rfl
@[simp] theorem State.withFetchWord_lineB (n w : Nat) : (s.withFetchWord n w).lineB = s.lineB := rfl
@[simp] theorem State.withFetchWord_dev (n w : Nat) : (s.withFetchWord n w).dev = s.dev := rfl
@[simp] theorem State.withFetchWord_inbox (n w : Nat) : (s.withFetchWord n w).inbox = .word (BitVec.ofNat 27 w) :: s.inbox := rfl
@[simp] theorem State.withFetchWord_result (n w : Nat) : (s.withFetchWord n w).result = s.result := rfl
@[simp] theorem State.withFetchWord_events (n w : Nat) : (s.withFetchWord n w).events = s.events := rfl
@[simp] theorem State.withFetchWord_draws (n w : Nat) : (s.withFetchWord n w).draws = s.draws := rfl

/-! Reading back what an update wrote. -/

@[simp] theorem State.chan_a : s.chan .a = s.sioA := rfl
@[simp] theorem State.chan_b : s.chan .b = s.sioB := rfl
@[simp] theorem State.sioLine_a : s.sioLine .a = s.lineA := rfl
@[simp] theorem State.sioLine_b : s.sioLine .b = s.lineB := rfl
@[simp] theorem State.setChan_a (ch : SioChannel) : s.setChan .a ch = { s with sioA := ch } := rfl
@[simp] theorem State.setChan_b (ch : SioChannel) : s.setChan .b ch = { s with sioB := ch } := rfl
@[simp] theorem State.setSioLine_a (l : HostLine) : s.setSioLine .a l = { s with lineA := l } := rfl
@[simp] theorem State.setSioLine_b (l : HostLine) : s.setSioLine .b l = { s with lineB := l } := rfl
@[simp] theorem State.mem_flat : s.mem .flat = s.flat := rfl
@[simp] theorem State.mem_rom : s.mem .rom = s.rom := rfl
@[simp] theorem State.mem_ram : s.mem .ram = s.ram := rfl

theorem State.chan_setChan_same (c : Channel) (ch : SioChannel) : (s.setChan c ch).chan c = ch := by
  cases c <;> rfl

theorem State.setChan_setChan (c : Channel) (x y : SioChannel) : (s.setChan c x).setChan c y = s.setChan c y := by
  cases c <;> rfl

theorem State.setChan_chan (c : Channel) : s.setChan c (s.chan c) = s := by
  cases c <;> rfl

theorem State.mem_setMem_same (a : StoreArray) (m : Memory) : (s.setMem a m).mem a = m := by
  cases a <;> rfl

theorem State.mem_setMem_other (a b : StoreArray) (m : Memory) (h : b ≠ a) : (s.setMem a m).mem b = s.mem b := by
  cases a <;> cases b <;> first | rfl | exact absurd rfl h

theorem State.setUart_get (i : Nat) (n : UartUnit) (h : s.uarts[i]? = some n) : s.setUart i n = s := by
  have hi : i < s.uarts.length := (List.getElem?_eq_some_iff.1 h).1
  have hn : s.uarts[i] = n := (List.getElem?_eq_some_iff.1 h).2
  simp [State.setUart, ← hn]

end Sys2Proof.Machine
end

