-- ==== Sys2Proof/Laws/Memory.lean ====
section
/-! SUPPORT. The laws of the storage operations: read after write, frame, and the canonical form they keep. -/

namespace Sys2Proof.Machine

theorem Memory.wfFrom_cons (size lo k : Nat) (b : Byte) (r : Memory) :
    Memory.wfFrom size lo ((k, b) :: r) = true ↔
      lo ≤ k ∧ k < size ∧ b ≠ Config.unlistedByte ∧ Memory.wfFrom size (k + 1) r = true := by
  simp [Memory.wfFrom, and_assoc]

theorem Memory.wfFrom_mono (size : Nat) (m : Memory) {lo lo' : Nat} (h : lo' ≤ lo)
    (hm : Memory.wfFrom size lo m = true) : Memory.wfFrom size lo' m = true := by
  cases m with
  | nil => rfl
  | cons c r =>
    obtain ⟨k, b⟩ := c
    rw [Memory.wfFrom_cons] at hm ⊢
    exact ⟨h.trans hm.1, hm.2⟩

/-- An offset below every listed one reads as an unlisted byte. -/
theorem Memory.read_below (size : Nat) (m : Memory) {lo a : Nat} (h : Memory.wfFrom size lo m = true) (ha : a < lo) :
    Memory.read m a = Config.unlistedByte := by
  induction m generalizing lo with
  | nil => rfl
  | cons c r ih =>
    obtain ⟨k, b⟩ := c
    rw [Memory.wfFrom_cons] at h
    have hk : a ≠ k := by omega
    simp only [Memory.read, hk, if_false]
    exact ih h.2.2.2 (by omega)

/-- Read after write at the same offset, in canonical storage. -/
theorem Memory.read_write_same (size : Nat) (m : Memory) {lo : Nat} (a : Nat) (v : Byte)
    (h : Memory.wfFrom size lo m = true) : Memory.read (Memory.write m a v) a = v := by
  induction m generalizing lo with
  | nil =>
    by_cases hv : v = Config.unlistedByte
    · simp [Memory.write, Memory.read, hv]
    · simp [Memory.write, Memory.read, hv]
  | cons c r ih =>
    obtain ⟨k, b⟩ := c
    rw [Memory.wfFrom_cons] at h
    have below : ∀ x, x ≤ k → Memory.read r x = Config.unlistedByte := fun x hx =>
      Memory.read_below size r h.2.2.2 (by omega)
    by_cases hlt : a < k
    · by_cases hv : v = Config.unlistedByte
      · simp [Memory.write, hlt, hv, Memory.read, Nat.ne_of_lt hlt, below a (by omega)]
      · simp [Memory.write, hlt, hv, Memory.read]
    · by_cases hak : a = k
      · by_cases hv : v = Config.unlistedByte
        · simp [Memory.write, hak, hv, below k le_rfl]
        · simp [Memory.write, hak, hv, Memory.read]
      · simp [Memory.write, hlt, hak, Memory.read, ih h.2.2.2]

/-- A write leaves every other offset as it was. -/
theorem Memory.read_write_other (m : Memory) (a x : Nat) (v : Byte) (h : x ≠ a) :
    Memory.read (Memory.write m a v) x = Memory.read m x := by
  induction m with
  | nil =>
    by_cases hv : v = Config.unlistedByte
    · simp [Memory.write, hv]
    · simp [Memory.write, hv, Memory.read, h]
  | cons c r ih =>
    obtain ⟨k, b⟩ := c
    by_cases hlt : a < k
    · by_cases hv : v = Config.unlistedByte
      · simp [Memory.write, hlt, hv]
      · simp [Memory.write, hlt, hv, Memory.read, h]
    · by_cases hak : a = k
      · subst hak
        by_cases hv : v = Config.unlistedByte
        · simp [Memory.write, hv, Memory.read, h]
        · simp [Memory.write, hv, Memory.read, h]
      · simp [Memory.write, hlt, hak, Memory.read, ih]

theorem Memory.wfFrom_write (size : Nat) (m : Memory) {lo : Nat} (a : Nat) (v : Byte) (ha : lo ≤ a) (hs : a < size)
    (h : Memory.wfFrom size lo m = true) : Memory.wfFrom size lo (Memory.write m a v) = true := by
  induction m generalizing lo with
  | nil =>
    by_cases hv : v = Config.unlistedByte
    · simp [Memory.write, hv, Memory.wfFrom]
    · simp [Memory.write, hv, Memory.wfFrom, ha, hs]
  | cons c r ih =>
    obtain ⟨k, b⟩ := c
    have h' := (Memory.wfFrom_cons size lo k b r).1 h
    by_cases hlt : a < k
    · by_cases hv : v = Config.unlistedByte
      · simpa [Memory.write, hlt, hv] using h
      · simp only [Memory.write, hlt, hv, if_true, if_false]
        rw [Memory.wfFrom_cons, Memory.wfFrom_cons]
        exact ⟨ha, hs, hv, by omega, h'.2⟩
    · by_cases hak : a = k
      · subst hak
        by_cases hv : v = Config.unlistedByte
        · simpa [Memory.write, hv] using Memory.wfFrom_mono size r (by omega) h'.2.2.2
        · simp only [Memory.write, lt_irrefl, hv, if_true, if_false]
          rw [Memory.wfFrom_cons]
          exact ⟨ha, hs, hv, h'.2.2.2⟩
      · simp only [Memory.write, hlt, hak, if_false]
        rw [Memory.wfFrom_cons]
        exact ⟨h'.1, h'.2.1, h'.2.2.1, ih (by omega) h'.2.2.2⟩

/-- A write inside the array keeps the canonical form. -/
theorem Memory.wf_write (size : Nat) (m : Memory) (a : Nat) (v : Byte) (hs : a < size) (h : m.wf size = true) :
    Memory.wf size (Memory.write m a v) = true :=
  Memory.wfFrom_write size m a v (Nat.zero_le a) hs h

theorem Memory.wf_foldl (size : Nat) (l : List Host.Cell) (m : Memory) (h : m.wf size = true) :
    Memory.wf size (l.foldl (fun m c => if c.1 < size then m.write c.1 c.2 else m) m) = true := by
  induction l generalizing m with
  | nil => exact h
  | cons c r ih =>
    by_cases hc : c.1 < size
    · simpa [hc] using ih _ (Memory.wf_write size m c.1 c.2 hc h)
    · simpa [hc] using ih _ h

/-- Storage equal to itself on every byte of two canonical listings is one listing. -/
theorem Memory.wf_nil (size : Nat) : Memory.wf size [] = true := rfl

/-- The storage of the reset state is in canonical form. -/
theorem reset_storage_wf :
    State.reset.flat.wf (arraySize Config.default .flat) = true ∧
      State.reset.rom.wf (arraySize Config.default .rom) = true ∧
      State.reset.ram.wf (arraySize Config.default .ram) = true := ⟨rfl, rfl, rfl⟩

/-- A location inside its array has its offset inside the array. -/
theorem Loc.key_lt (c : Config) (l : Loc) (h : l.inRange c = true) : l.key < arraySize c l.arr := by
  have hb : l.bank < bankCount c l.arr := by simpa [Loc.inRange] using h
  have ho : l.off.toNat < Config.bankSize := l.off.isLt
  calc l.key < l.bank * Config.bankSize + Config.bankSize := Nat.add_lt_add_left ho _
    _ = (l.bank + 1) * Config.bankSize := by ring
    _ ≤ bankCount c l.arr * Config.bankSize := Nat.mul_le_mul_right _ hb

/-- Two locations are the same byte only as the same bank and offset of one array. -/
theorem Loc.eq_of_key (l k : Loc) (ha : l.arr = k.arr) (hk : l.key = k.key) : l = k := by
  obtain ⟨la, lb, lo⟩ := l
  obtain ⟨ka, kb, ko⟩ := k
  have hl := lo.isLt
  have hr := ko.isLt
  simp only [Loc.key, Config.bankSize] at ha hk
  have hb : lb = kb := by omega
  have ho : lo = ko := BitVec.eq_of_toNat_eq (by omega)
  simp [ha, hb, ho]

/-- Reading a location after a write to the same location of canonical storage. -/
theorem State.readLoc_writeLoc_same (s : State) (l : Loc) (d : Byte) (size : Nat)
    (h : (s.mem l.arr).wf size = true) : (s.writeLoc l d).readLoc l = d := by
  simp only [State.readLoc, State.writeLoc, State.mem_setMem_same]
  exact Memory.read_write_same size _ _ _ h

/-- A write at one location leaves every other one as it was. -/
theorem State.readLoc_writeLoc_other (s : State) (l k : Loc) (d : Byte) (h : ¬ (k.arr = l.arr ∧ k.key = l.key)) :
    (s.writeLoc l d).readLoc k = s.readLoc k := by
  simp only [State.readLoc, State.writeLoc]
  by_cases ha : k.arr = l.arr
  · rw [ha, State.mem_setMem_same, Memory.read_write_other _ _ _ _ fun hk => h ⟨ha, hk⟩]
  · rw [State.mem_setMem_other _ _ _ _ ha]

end Sys2Proof.Machine
end

