-- ==== Sys2Proof/Laws/Ops.lean ====
section
/-! SUPPORT. One lemma per shared operation that says once what it can do: where an address lands, what a memory operation
answers, and which fields each device operation touches (a frame lemma: the state after is the state before with only
the named fields changed). -/

namespace Sys2Proof.Machine

/-! Configuration and translation. -/

/-- The parts of a valid configuration (00_scope.md R10, R11). -/
theorem configValid_parts {c : Config} (h : configValid c = true) :
    (portMap c).all regionOk = true ∧ mapDisjoint (portMap c) = true ∧
      c.flatCommon < 16 ∧ c.flatRomBanks ≤ 16 ∧ c.dualCommon < c.dualBanks ∧ c.dualIdxBits ≤ 8 ∧
      imageSizeOk c = true := by
  unfold configValid bankParamsOk at h
  simp only [Bool.and_eq_true, decide_eq_true_eq] at h
  exact ⟨h.1.1.1, h.1.1.2, h.1.2.1.1.1, h.1.2.1.1.2, h.1.2.1.2, h.1.2.2, h.2⟩

theorem dualBanks_pos (c : Config) : 0 < c.dualBanks := Nat.two_pow_pos _

theorem resolveDual_lt (c : Config) (rb win : Byte) : (resolveDual c rb win).2 < c.dualBanks := by
  unfold resolveDual dualBank
  cases c.dualMap <;> exact Nat.mod_lt _ (dualBanks_pos c)

theorem resolveDual_arr (c : Config) (rb win : Byte) :
    (resolveDual c rb win).1 = .ram ∨ (resolveDual c rb win).1 = .rom := by
  unfold resolveDual
  cases c.dualMap <;> dsimp only <;> split <;> simp

theorem bankCount_dual {c : Config} {arr : StoreArray} (h : arr = .ram ∨ arr = .rom) :
    bankCount c arr = c.dualBanks := by
  rcases h with rfl | rfl <;> rfl

/-- The lower window lands inside its array (40_bank_translator.md R137). -/
theorem lowerLoc_inRange (s : State) (o : Offset) : (lowerLoc s o).inRange s.cfg = true := by
  refine decide_eq_true ?_
  unfold lowerLoc
  cases s.cfg.scheme with
  | flat => exact (s.bsel.extractLsb' 0 4).isLt
  | dual =>
    dsimp only
    rw [bankCount_dual (resolveDual_arr _ _ _)]
    exact resolveDual_lt s.cfg s.rb s.win

/-- The upper window lands inside its array (40_bank_translator.md R137). -/
theorem upperLoc_inRange {c : Config} (h : configValid c = true) (o : Offset) : (upperLoc c o).inRange c = true := by
  obtain ⟨-, -, hf, -, hd, -⟩ := configValid_parts h
  refine decide_eq_true ?_
  unfold upperLoc
  cases c.scheme with
  | flat => exact hf
  | dual => exact hd

@[simp] theorem lowerLoc_off (s : State) (o : Offset) : (lowerLoc s o).off = o := by
  unfold lowerLoc
  cases s.cfg.scheme <;> rfl

@[simp] theorem upperLoc_off (c : Config) (o : Offset) : (upperLoc c o).off = o := by
  unfold upperLoc
  cases c.scheme <;> rfl

@[simp] theorem addrUpper_windowAddr (u : Bool) (o : Offset) : addrUpper (windowAddr u o) = u := by
  simp only [addrUpper, windowAddr, BitVec.getLsbD_append]
  cases u <;> rfl

@[simp] theorem addrOffset_windowAddr (u : Bool) (o : Offset) : addrOffset (windowAddr u o) = o := by
  refine BitVec.eq_of_getLsbD_eq fun i hi => ?_
  simp only [addrOffset, windowAddr, BitVec.getLsbD_extractLsb', BitVec.getLsbD_append, Nat.zero_add, hi,
    decide_true, Bool.true_and, if_true]

theorem windowAddr_split (a : Addr) : windowAddr (addrUpper a) (addrOffset a) = a := by
  refine BitVec.eq_of_getLsbD_eq fun i hi => ?_
  simp only [addrOffset, addrUpper, windowAddr, BitVec.getLsbD_extractLsb', BitVec.getLsbD_append, Nat.zero_add]
  by_cases h : i < 15
  · simp only [h, decide_true, Bool.true_and, if_true]
  · have : i = 15 := by omega
    subst this
    cases a.getLsbD 15 <;> rfl

/-! Memory operations. -/

theorem readAt_next {l : Loc} {s : State} (h : l.inRange s.cfg = true) :
    readAt l s = .next (s.ret (s.readLoc l)) := by simp [readAt, h]

theorem fetchAt_next {l : Loc} {s : State} (h : l.inRange s.cfg = true) :
    fetchAt l s = .next (sniffStep (s.readLoc l) (s.ret (s.readLoc l))) := by simp [fetchAt, h]

theorem writeAt_next {l : Loc} {s : State} (d : Byte) (h : l.inRange s.cfg = true) :
    writeAt l d s = .next (if l.isRom s.cfg then s else s.writeLoc l d) := by simp [writeAt, h]

theorem readAt_inv {l : Loc} {s t : State} (h : readAt l s = .next t) :
    l.inRange s.cfg = true ∧ t = s.ret (s.readLoc l) := by
  unfold readAt at h
  split at h
  · exact ⟨‹_›, by injection h with h; exact h.symm⟩
  · cases h

theorem fetchAt_inv {l : Loc} {s t : State} (h : fetchAt l s = .next t) :
    l.inRange s.cfg = true ∧ t = sniffStep (s.readLoc l) (s.ret (s.readLoc l)) := by
  unfold fetchAt at h
  split at h
  · exact ⟨‹_›, by injection h with h; exact h.symm⟩
  · cases h

theorem writeAt_inv {l : Loc} {d : Byte} {s t : State} (h : writeAt l d s = .next t) :
    l.inRange s.cfg = true ∧ (l.isRom s.cfg = true ∧ t = s ∨ l.isRom s.cfg = false ∧ t = s.writeLoc l d) := by
  unfold writeAt at h
  split at h
  · refine ⟨‹_›, ?_⟩
    injection h with h
    split at h
    · exact .inl ⟨‹_›, h.symm⟩
    · exact .inr ⟨Bool.eq_false_iff.2 ‹_›, h.symm⟩
  · cases h

/-- A write touches one storage array. -/
theorem State.writeLoc_frame (s : State) (l : Loc) (d : Byte) :
    s.writeLoc l d =
      { s with flat := (s.writeLoc l d).flat, rom := (s.writeLoc l d).rom, ram := (s.writeLoc l d).ram } := by
  obtain ⟨arr, _, _⟩ := l
  cases arr <;> rfl

/-- A write inside its array keeps the canonical form of every array. -/
theorem State.writeLoc_wf (s : State) (l : Loc) (d : Byte) (arr : StoreArray) (hl : l.inRange s.cfg = true)
    (h : (s.mem arr).wf (arraySize s.cfg arr) = true) : ((s.writeLoc l d).mem arr).wf (arraySize s.cfg arr) = true := by
  unfold State.writeLoc
  by_cases ha : arr = l.arr
  · subst ha
    rw [State.mem_setMem_same]
    exact Memory.wf_write _ _ _ _ (Loc.key_lt s.cfg l hl) h
  · rwa [State.mem_setMem_other _ _ _ _ ha]

/-! The serial controller. -/

theorem State.chan_setChan_other (s : State) (c e : Channel) (ch : SioChannel) (h : e ≠ c) :
    (s.setChan c ch).chan e = s.chan e := by
  cases c <;> cases e <;> first | rfl | exact absurd rfl h

@[simp] theorem State.chan_ret (s : State) (b : Byte) (c : Channel) : (s.ret b).chan c = s.chan c := by
  cases c <;> rfl

@[simp] theorem State.chan_setSioLine (s : State) (c e : Channel) (l : HostLine) :
    (s.setSioLine c l).chan e = s.chan e := by
  cases c <;> cases e <;> rfl

/-- Raising a condition touches the channels, the latch, the vector and `CHANGED`. -/
theorem sioRaise_frame (c : Channel) (cond : SioCond) (s : State) :
    sioRaise c cond s =
      { s.setChan c ((s.chan c).setPend cond) with
        sioAsserted := (sioRaise c cond s).sioAsserted
        sioVec := (sioRaise c cond s).sioVec
        changed := (sioRaise c cond s).changed } := by
  unfold sioRaise
  dsimp only
  split <;> rfl

/-- The channel a condition was raised on. -/
theorem sioRaise_chan (c : Channel) (cond : SioCond) (s : State) :
    (sioRaise c cond s).chan c = (s.chan c).setPend cond := by
  rw [sioRaise_frame]
  cases c <;> rfl

/-- On channel B the latch does not move. -/
theorem sioRaise_b_asserted (cond : SioCond) (s : State) : (sioRaise .b cond s).sioAsserted = s.sioAsserted := by
  simp [sioRaise]

/-- A re-evaluation touches the latch, the vector and `CHANGED`. -/
theorem sioReti_frame (s : State) :
    sioReti s = { s with sioAsserted := (sioReti s).sioAsserted, sioVec := (sioReti s).sioVec, changed := true } := by
  unfold sioReti
  cases s.sioA.pendAny <;> simp [State.assertSio, State.markChanged]

/-- The latch after a re-evaluation. -/
theorem sioReti_asserted (s : State) : (sioReti s).sioAsserted = s.sioA.pendAny := by
  unfold sioReti
  cases s.sioA.pendAny <;> rfl

/-- A received byte leaves the state alone, changes its channel, or changes its channel and raises a condition. -/
theorem sioPush_cases (c : Channel) (b : Byte) (s : State) :
    ((s.chan c).rxOn = false ∧ sioPush c b s = s) ∨
    ((s.chan c).rxOn = true ∧ (s.chan c).q.length = Config.sioQueueDepth ∧
      ((s.chan c).mode = 0#2 ∧ sioPush c b s = s.setChan c { s.chan c with q := replaceLast (s.chan c).q b, ovr := true } ∨
        (s.chan c).mode ≠ 0#2 ∧ sioPush c b s =
          sioRaise c .err (s.setChan c { s.chan c with q := replaceLast (s.chan c).q b, ovr := true }))) ∨
    ((s.chan c).rxOn = true ∧ (s.chan c).q.length ≠ Config.sioQueueDepth ∧
      (((s.chan c).mode = 0#2 ∨ (s.chan c).mode = 1#2 ∧ (s.chan c).arm = false) ∧
          sioPush c b s = s.setChan c { s.chan c with q := (s.chan c).q ++ [b] } ∨
        (s.chan c).mode = 1#2 ∧ (s.chan c).arm = true ∧
          sioPush c b s = sioRaise c .rxa (s.setChan c { s.chan c with q := (s.chan c).q ++ [b], arm := false }) ∨
        (s.chan c).mode ≠ 0#2 ∧ (s.chan c).mode ≠ 1#2 ∧
          sioPush c b s = sioRaise c .rxa (s.setChan c { s.chan c with q := (s.chan c).q ++ [b] }))) := by
  unfold sioPush
  dsimp only
  by_cases h0 : (s.chan c).rxOn = false
  · exact .inl ⟨h0, by simp [h0]⟩
  · have h0' : (s.chan c).rxOn = true := by simpa using h0
    by_cases h1 : (s.chan c).q.length = Config.sioQueueDepth
    · refine .inr (.inl ⟨h0', h1, ?_⟩)
      by_cases h2 : (s.chan c).mode = 0#2
      · exact .inl ⟨h2, by simp [h0', h1, h2]⟩
      · exact .inr ⟨h2, by simp [h0', h1, h2]⟩
    · refine .inr (.inr ⟨h0', h1, ?_⟩)
      by_cases h2 : (s.chan c).mode = 0#2
      · exact .inl ⟨.inl h2, by simp [h0', h1, h2]⟩
      · by_cases h3 : (s.chan c).mode = 1#2
        · by_cases h4 : (s.chan c).arm = true
          · exact .inr (.inl ⟨h3, h4, by simp [h0', h1, h3, h4]⟩)
          · have h4' : (s.chan c).arm = false := by simpa using h4
            exact .inl ⟨.inr ⟨h3, h4'⟩, by simp [h0', h1, h3, h4']⟩
        · exact .inr (.inr ⟨h2, h3, by simp [h0', h1, h2, h3]⟩)

/-- A received byte touches its channel, the latch, the vector and `CHANGED`. -/
theorem sioPush_frame (c : Channel) (b : Byte) (s : State) :
    sioPush c b s =
      { s.setChan c ((sioPush c b s).chan c) with
        sioAsserted := (sioPush c b s).sioAsserted
        sioVec := (sioPush c b s).sioVec
        changed := (sioPush c b s).changed } := by
  rcases sioPush_cases c b s with ⟨-, h⟩ | ⟨-, -, ⟨-, h⟩ | ⟨-, h⟩⟩ | ⟨-, -, ⟨-, h⟩ | ⟨-, -, h⟩ | ⟨-, -, h⟩⟩ <;> rw [h]
  · cases c <;> rfl
  · cases c <;> rfl
  · rw [sioRaise_chan, State.chan_setChan_same, sioRaise_frame]
    cases c <;> rfl
  · cases c <;> rfl
  · rw [sioRaise_chan, State.chan_setChan_same, sioRaise_frame]
    cases c <;> rfl
  · rw [sioRaise_chan, State.chan_setChan_same, sioRaise_frame]
    cases c <;> rfl

/-- A pop gives the oldest byte or a free one. -/
theorem sioPop_cases (c : Channel) (s : State) :
    ((s.chan c).q = [] ∧ sioPop c s = s.retDraw) ∨
    (∃ b r, (s.chan c).q = b :: r ∧ sioPop c s = (s.setChan c ((s.chan c).popped r)).ret b) := by
  unfold sioPop
  cases h : (s.chan c).q with
  | nil => exact .inl ⟨rfl, rfl⟩
  | cons b r => exact .inr ⟨b, r, rfl, rfl⟩

/-- One channel's part of a tick touches its channel, its line, the latch, the vector and `CHANGED`. -/
theorem sioTickChan_frame (c : Channel) (s : State) :
    sioTickChan c s =
      { (s.setSioLine c ((sioTickChan c s).sioLine c)).setChan c ((sioTickChan c s).chan c) with
        sioAsserted := (sioTickChan c s).sioAsserted
        sioVec := (sioTickChan c s).sioVec
        changed := (sioTickChan c s).changed } := by
  unfold sioTickChan
  split
  · rw [sioPush_frame]
    cases c <;> rfl
  · cases c <;> rfl

/-! The UARTs. -/

/-- A UART read that completed. -/
theorem uartIn_inv {i : Nat} {s t : State} {value : Uart → Byte} {after : Uart → Uart} {touch : Uart → Bool}
    (h : uartIn i s value after touch = .next t) :
    ∃ n, s.uarts[i]? = some n ∧
      t = ((s.setUart i { n with uart := after n.uart }).markChanged (touch n.uart)).ret (value n.uart) := by
  unfold uartIn at h
  split at h
  · cases h
  · exact ⟨_, ‹_›, by injection h with h; exact h.symm⟩

/-- A UART write that completed. -/
theorem uartOut_inv {i : Nat} {s t : State} {after : Uart → Uart} {touch : Bool}
    (h : uartOut i s after touch = .next t) :
    ∃ n, s.uarts[i]? = some n ∧ t = (s.setUart i { n with uart := after n.uart }).markChanged touch := by
  unfold uartOut at h
  split at h
  · cases h
  · exact ⟨_, ‹_›, by injection h with h; exact h.symm⟩

theorem uartIn_next {i : Nat} {s : State} {n : UartUnit} (h : s.uarts[i]? = some n) (value : Uart → Byte)
    (after : Uart → Uart) (touch : Uart → Bool) :
    uartIn i s value after touch =
      .next (((s.setUart i { n with uart := after n.uart }).markChanged (touch n.uart)).ret (value n.uart)) := by
  simp [uartIn, h]

theorem uartOut_next {i : Nat} {s : State} {n : UartUnit} (h : s.uarts[i]? = some n) (after : Uart → Uart)
    (touch : Bool) :
    uartOut i s after touch = .next ((s.setUart i { n with uart := after n.uart }).markChanged touch) := by
  simp [uartOut, h]

/-- Raising a source sets its pending bit to what it was or its enable. -/
theorem uartRaise_fst (src : UartSource) (u : Uart) :
    (uartRaise src u).1 = u.setPend src (u.pend src || u.enabled src) := by
  unfold uartRaise
  cases hp : u.pend src <;> cases he : u.enabled src <;>
    cases src <;> simp_all [Uart.pend, Uart.setPend] <;> simp [← hp]

/-- A raise reports a change exactly when it sets the bit. -/
theorem uartRaise_snd (src : UartSource) (u : Uart) :
    (uartRaise src u).2 = (u.enabled src && !u.pend src) := by
  unfold uartRaise
  cases u.enabled src <;> cases u.pend src <;> rfl

theorem forUarts_length (f : UartUnit → UartUnit × Bool) (s : State) :
    (forUarts f s).uarts.length = s.uarts.length := by simp [forUarts]

/-! The disk bridge. -/

/-- A read transfer touches the data registers, the device's answers, the draw count and the events. -/
theorem readTransfer_frame (sel : BitVec 4) (s : State) :
    ∃ v : Half, readTransfer sel s =
      { s with
        db := { s.db with dlo := v.extractLsb' 0 8, dhi := v.extractLsb' 8 8 }
        dev := (readTransfer sel s).dev
        draws := (readTransfer sel s).draws
        events := s.events ++ [.devRead16 sel v] } := by
  unfold readTransfer
  split
  · split
    · exact ⟨_, rfl⟩
    · exact ⟨_, rfl⟩
  · exact ⟨_, rfl⟩

/-- A control write leaves `CTL` and `PREV` at the byte written and touches the disk bridge, the device, the draw count
and the events only. -/
theorem controlWrite_frame (d : Byte) (s : State) :
    controlWrite d s =
      { s with
        db := { s.db with dlo := (controlWrite d s).db.dlo, dhi := (controlWrite d s).db.dhi, ctl := d, prev := d }
        dev := (controlWrite d s).dev
        draws := (controlWrite d s).draws
        events := (controlWrite d s).events } := by
  unfold controlWrite
  dsimp only
  split
  · split <;> rfl
  · split <;> split <;> split <;> first
      | rfl
      | (unfold readTransfer; split <;> (try split) <;> rfl)

/-- The events of a control write: device resets and transfers, nothing else. -/
theorem controlWrite_events (d : Byte) (s : State) :
    ∃ es, (controlWrite d s).events = s.events ++ es ∧ ∀ e ∈ es, e = .devReset ∨ e.isTransfer = true := by
  have stage : ∀ (p : Bool) (f : State → State) (u : State) (es : List Event),
      (∀ w, ∃ e, (f w).events = w.events ++ [e] ∧ (e = .devReset ∨ e.isTransfer = true)) →
      u.events = s.events ++ es → (∀ e ∈ es, e = .devReset ∨ e.isTransfer = true) →
      ∃ es, (if p then f u else u).events = s.events ++ es ∧ ∀ e ∈ es, e = .devReset ∨ e.isTransfer = true := by
    intro p f u es hf hu he
    cases p with
    | false => exact ⟨es, hu, he⟩
    | true =>
      obtain ⟨e, h1, h2⟩ := hf u
      refine ⟨es ++ [e], by simp [h1, hu], fun x hx => ?_⟩
      rcases List.mem_append.1 hx with hx | hx
      · exact he x hx
      · simp only [List.mem_singleton] at hx
        exact hx ▸ h2
  obtain ⟨es2, h2, he2⟩ := stage (rises s.db.prev d s.cfg.dbRstBit) (fun w => w.emit .devReset)
    { s with db := { s.db with ctl := d, prev := d } } [] (fun w => ⟨_, rfl, .inl rfl⟩) (by simp) (by simp)
  obtain ⟨es3, h3, he3⟩ := stage (rises s.db.prev d s.cfg.dbWrBit) (writeTransfer (diskSelector s.cfg d)) _ es2
    (fun w => ⟨_, rfl, .inr rfl⟩) h2 he2
  obtain ⟨es4, h4, he4⟩ := stage (rises s.db.prev d s.cfg.dbRdBit) (readTransfer (diskSelector s.cfg d)) _ es3
    (fun w => by
      obtain ⟨v, hv⟩ := readTransfer_frame (diskSelector s.cfg d) w
      exact ⟨.devRead16 (diskSelector s.cfg d) v, by rw [hv], .inr rfl⟩) h3 he3
  unfold controlWrite
  dsimp only
  split
  · exact ⟨es2, h2, he2⟩
  · exact ⟨es4, h4, he4⟩

/-! The arbiter and the detector. -/

/-- A poll clears `CHANGED`, and injects the first offer when no source is live. -/
theorem poll_cases (s : State) :
    ((s.live ≠ none ∨ firstOffer s s.cfg.arbOrder = none) ∧ poll s = { s with changed := false }) ∨
    (∃ src v, s.live = none ∧ firstOffer s s.cfg.arbOrder = some (src, v) ∧
      poll s = { s with changed := false, live := some src, events := s.events ++ [.inject v] }) := by
  unfold poll
  dsimp only
  cases hl : s.live with
  | some x => exact .inl ⟨.inl (by simp), rfl⟩
  | none =>
    cases hf : firstOffer s s.cfg.arbOrder with
    | none => exact .inl ⟨.inr rfl, rfl⟩
    | some p => exact .inr ⟨p.1, p.2, rfl, rfl, rfl⟩

/-- The first offer comes from the order it was looked up in. -/
theorem firstOffer_mem {s : State} {order : List Source} {src : Source} {v : Byte}
    (h : firstOffer s order = some (src, v)) : src ∈ order ∧ offer s src = some v := by
  induction order with
  | nil => cases h
  | cons x r ih =>
    unfold firstOffer at h
    split at h
    · rename_i w hw
      injection h with h
      injection h with h1 h2
      subst h1; subst h2
      exact ⟨by simp, hw⟩
    · exact ⟨List.mem_cons_of_mem _ (ih h).1, (ih h).2⟩

/-- A poll touches `CHANGED`, `LIVE` and the events. -/
theorem poll_frame (s : State) :
    poll s = { s with changed := false, live := (poll s).live, events := (poll s).events } := by
  rcases poll_cases s with ⟨-, h⟩ | ⟨src, v, -, -, h⟩ <;> rw [h]

/-- A return touches the serial latch and vector, `CHANGED`, `LIVE` and the events. -/
theorem onReti_frame (s : State) :
    onReti s =
      { s with
        sioAsserted := (onReti s).sioAsserted, sioVec := (onReti s).sioVec
        changed := false, live := (onReti s).live, events := (onReti s).events } := by
  unfold onReti
  dsimp only
  rw [poll_frame]
  split
  · rw [sioReti_frame]
  · rfl

/-- The detector leaves everything but its own state alone, or it saw a return. -/
theorem sniffStep_cases (b : Byte) (s : State) :
    (∃ q : Sniff, sniffStep b s = { s with sniff := q }) ∨
    (s.sniff = .afterEd ∧ b = 0x4D ∧ sniffStep b s = onReti ({ s with sniff := .idle }.emit .reti)) := by
  unfold sniffStep
  cases hs : s.sniff <;> dsimp only
  · refine .inl ?_
    split
    · exact ⟨_, rfl⟩
    · split
      · exact ⟨_, rfl⟩
      · split <;> exact ⟨_, rfl⟩
  · by_cases hb : b = 0x4D
    · exact .inr ⟨rfl, hb, if_pos hb⟩
    · exact .inl ⟨.idle, if_neg hb⟩
  · exact .inl ⟨.idle, rfl⟩
  · refine .inl ?_
    split
    · exact ⟨_, rfl⟩
    · split <;> exact ⟨_, rfl⟩

/-- The detector's step touches its own state and what a return touches. -/
theorem sniffStep_frame (b : Byte) (s : State) :
    sniffStep b s =
      { s with
        sniff := (sniffStep b s).sniff
        sioAsserted := (sniffStep b s).sioAsserted, sioVec := (sniffStep b s).sioVec
        changed := (sniffStep b s).changed, live := (sniffStep b s).live, events := (sniffStep b s).events } := by
  rcases sniffStep_cases b s with ⟨q, h⟩ | ⟨-, -, h⟩ <;> rw [h]
  rw [onReti_frame]
  rfl

/-! The host. -/

/-- A host action touches the host side only. -/
theorem hostAct_frame (a : HostAction) (s : State) :
    hostAct a s =
      { s with
        lineA := (hostAct a s).lineA, lineB := (hostAct a s).lineB
        uarts := (hostAct a s).uarts, dev := (hostAct a s).dev } := by
  have line : ∀ (l : LineId) (f : HostLine → HostLine), s.mapLine l f =
      { s with
        lineA := (s.mapLine l f).lineA, lineB := (s.mapLine l f).lineB
        uarts := (s.mapLine l f).uarts, dev := (s.mapLine l f).dev } := by
    intro l f
    cases l with
    | sio c => cases c <;> rfl
    | uart i =>
      unfold State.mapLine
      dsimp only
      split <;> rfl
  unfold hostAct
  cases a <;> first | exact line _ _ | rfl

/-- A host action leaves the registers of every UART alone. -/
theorem hostAct_uarts (a : HostAction) (s : State) :
    (hostAct a s).uarts.map UartUnit.uart = s.uarts.map UartUnit.uart := by
  have line : ∀ (l : LineId) (f : HostLine → HostLine),
      (s.mapLine l f).uarts.map UartUnit.uart = s.uarts.map UartUnit.uart := by
    intro l f
    cases l with
    | sio c => cases c <;> rfl
    | uart i =>
      unfold State.mapLine
      dsimp only
      split
      · rename_i n hn
        have hi : i < s.uarts.length := (List.getElem?_eq_some_iff.1 hn).1
        have he : s.uarts[i] = n := (List.getElem?_eq_some_iff.1 hn).2
        simp only [State.setUart, List.map_set]
        refine List.ext_getElem (by simp) fun k h1 h2 => ?_
        by_cases hk : i = k
        · subst hk; simp [he]
        · simp [hk]
      · rfl
  unfold hostAct
  cases a <;> first | exact line _ _ | rfl

end Sys2Proof.Machine
end

