-- ==== Sys2Proof/Laws/Decode.lean ====
section
/-! SUPPORT. The port map's lookup and the fields of a packed word: what decoding reads, said once. -/

namespace Sys2Proof.Machine

/-! The port map. -/

/-- A found region is one of the map, holds the port, and gives the port's offset in it (41_port_dispatch.md R170). -/
theorem findRegion_inv {m : List Region} {p o : Nat} {dev : RegionDevice} (h : findRegion m p = some (dev, o)) :
    ∃ r ∈ m, r.device = dev ∧ r.base ≤ p ∧ p < r.base + r.size ∧ o = p - r.base := by
  induction m with
  | nil => cases h
  | cons r rs ih =>
    unfold findRegion at h
    split at h
    · rename_i hp
      injection h with h
      injection h with h1 h2
      exact ⟨r, by simp, h1, hp.1, hp.2, h2.symm⟩
    · obtain ⟨q, hq, hx⟩ := ih h
      exact ⟨q, List.mem_cons_of_mem _ hq, hx⟩

/-- A port inside a region of a disjoint map is found there (00_scope.md R10). -/
theorem findRegion_mem {m : List Region} (hm : mapDisjoint m = true) {r : Region} (hr : r ∈ m) {p : Nat}
    (h1 : r.base ≤ p) (h2 : p < r.base + r.size) : findRegion m p = some (r.device, p - r.base) := by
  induction m with
  | nil => cases hr
  | cons q rs ih =>
    unfold mapDisjoint at hm
    rw [Bool.and_eq_true, List.all_eq_true] at hm
    unfold findRegion
    rcases List.mem_cons.1 hr with rfl | hr'
    · rw [if_pos ⟨h1, h2⟩]
    · have ha := hm.1 r hr'
      simp only [regionsApart, Bool.or_eq_true, decide_eq_true_eq] at ha
      rw [if_neg (by omega)]
      exact ih hm.2 hr'

/-- Every region of a valid configuration ends inside the 256 ports, and its size is at least 1. -/
theorem region_bounds {c : Config} (h : configValid c = true) {r : Region} (hr : r ∈ portMap c) :
    r.base + r.size ≤ 256 ∧ r.base % r.size = 0 ∧ 1 ≤ r.size := by
  have ha := List.all_eq_true.1 (configValid_parts h).1 r hr
  simp only [regionOk, Bool.and_eq_true, decide_eq_true_eq, beq_iff_eq] at ha
  refine ⟨ha.2, ha.1.2, ?_⟩
  by_contra hc
  have : r.size = 0 := by omega
  simp [this] at ha

/-- The UART regions are the instances in order. -/
theorem mem_uartRegions {us : List UartConfig} {k : Nat} {r : Region} :
    r ∈ uartRegions k us ↔ ∃ i u, us[i]? = some u ∧ r = ⟨u.base, 8, .uart (k + i)⟩ := by
  induction us generalizing k with
  | nil => simp [uartRegions]
  | cons u us ih =>
    simp only [uartRegions, List.mem_cons, ih]
    constructor
    · rintro (h | ⟨i, v, h1, h2⟩)
      · exact ⟨0, u, by simp, by simp [h]⟩
      · exact ⟨i + 1, v, by simpa using h1, by rw [h2]; congr 2; omega⟩
    · rintro ⟨i, v, h1, h2⟩
      cases i with
      | zero =>
        simp only [List.getElem?_cons_zero, Option.some.injEq] at h1
        exact .inl (by rw [h2, ← h1]; rfl)
      | succ i =>
        simp only [List.getElem?_cons_succ] at h1
        exact .inr ⟨i, v, h1, by rw [h2]; congr 2; omega⟩

/-- The regions of the map, one by one (41_port_dispatch.md R171). -/
theorem mem_portMap {c : Config} {r : Region} :
    r ∈ portMap c ↔
      r = ⟨c.portBank, 1, .bank⟩ ∨ (c.scheme = .dual ∧ r = ⟨c.portWin, 1, .window⟩) ∨ r = ⟨c.sioBase, 4, .sio⟩ ∨
        (∃ i u, c.uarts[i]? = some u ∧ r = ⟨u.base, 8, .uart i⟩) ∨ r = ⟨c.dbBase, c.dbSize, .disk⟩ ∨
        r = ⟨c.tracePort, 1, .trace⟩ := by
  have hu := @mem_uartRegions c.uarts 0 r
  simp only [Nat.zero_add] at hu
  simp only [portMap, List.mem_append, List.mem_cons, hu, List.not_mem_nil, or_false]
  unfold bankRegions
  cases c.scheme <;> simp [or_assoc]

/-- A port inside a region of a valid configuration is looked up there. -/
theorem lookupPort_mem {c : Config} (h : configValid c = true) {r : Region} (hr : r ∈ portMap c) {o : Nat}
    (ho : o < r.size) : lookupPort c (addrPort (BitVec.ofNat 16 (r.base + o))) = some (r.device, o) := by
  have hb := region_bounds h hr
  have hp : (addrPort (BitVec.ofNat 16 (r.base + o))).toNat = r.base + o := by
    simp only [addrPort, BitVec.extractLsb'_toNat, BitVec.toNat_ofNat, Nat.shiftRight_zero]
    omega
  unfold lookupPort
  rw [hp, findRegion_mem (configValid_parts h).2.1 hr (by omega) (by omega)]
  congr 2
  omega

end Sys2Proof.Machine

namespace Sys2Proof

/-! The fields of a word. -/

@[simp] theorem wordKind_packWord (k : BitVec 3) (a : Addr) (d : Byte) : wordKind (packWord k a d) = k := by
  refine BitVec.eq_of_getLsbD_eq fun i hi => ?_
  simp only [wordKind, packWord, BitVec.getLsbD_extractLsb', BitVec.getLsbD_append, hi, decide_true, Bool.true_and]
  rw [if_neg (by omega), if_neg (by omega)]
  congr 1
  omega

@[simp] theorem wordAddr_packWord (k : BitVec 3) (a : Addr) (d : Byte) : wordAddr (packWord k a d) = a := by
  refine BitVec.eq_of_getLsbD_eq fun i hi => ?_
  simp only [wordAddr, packWord, BitVec.getLsbD_extractLsb', BitVec.getLsbD_append, hi, decide_true, Bool.true_and]
  rw [if_neg (by omega), if_pos (by omega)]
  congr 1
  omega

@[simp] theorem wordData_packWord (k : BitVec 3) (a : Addr) (d : Byte) : wordData (packWord k a d) = d := by
  refine BitVec.eq_of_getLsbD_eq fun i hi => ?_
  simp only [wordData, packWord, BitVec.getLsbD_extractLsb', BitVec.getLsbD_append, hi, decide_true, Bool.true_and]
  rw [if_pos (by omega)]
  congr 1
  omega

/-- A word is its three fields (30_encoding.md R100). -/
theorem packWord_fields (t : TWord) : packWord (wordKind t) (wordAddr t) (wordData t) = t := by
  refine BitVec.eq_of_getLsbD_eq fun i hi => ?_
  simp only [packWord, wordKind, wordAddr, wordData, BitVec.getLsbD_append, BitVec.getLsbD_extractLsb', Nat.zero_add]
  by_cases h1 : i < 8
  · simp [h1]
  · by_cases h2 : i < 24
    · have : i - 8 < 16 := by omega
      have e : 8 + (i - 8) = i := by omega
      simp [h1, this, e]
    · have h3 : ¬ i - 8 < 16 := by omega
      have h4 : i - 8 - 16 < 3 := by omega
      have e : 24 + (i - 8 - 16) = i := by omega
      simp [h1, h3, h4, e]

/-- The three fields of a WR0 byte (10_state.md R41). -/
theorem wr0Byte_fields (crc : BitVec 2) (cmd ptr : BitVec 3) :
    (wr0Byte crc cmd ptr).extractLsb' 6 2 = crc ∧ (wr0Byte crc cmd ptr).extractLsb' 3 3 = cmd ∧
      (wr0Byte crc cmd ptr).extractLsb' 0 3 = ptr := by
  revert crc cmd ptr
  decide

end Sys2Proof
end

