-- ==== Sys2Proof/Laws/PerInstr.lean ====
section
/-! SUPPORT. Per-instruction family: the word of an operation is never a reserved word (30_encoding.md R105). -/

namespace Sys2Proof.Laws

/-- In every view the decoder accepts the word of the operation. -/
def EncodeNotReserved.Statement (i : Instr) : Prop := ∀ v : DecodeView, ∃ j, decode v (encode v.cfg i) = .ok j

theorem encodeNotReserved_read (v : DecodeView) (p : Nat) : ∃ j, decode v (inWord p) = .ok j := by
  simp [decode, inWord, readWord]

theorem encodeNotReserved_write (v : DecodeView) (p : Nat) (d : Byte) : ∃ j, decode v (outWord p d) = .ok j := by
  simp [decode, outWord]

theorem EncodeNotReserved.mrdLo (o : Offset) :
    EncodeNotReserved.Statement (.mrdLo o) := fun v => by simp [encode, decode, readWord]

theorem EncodeNotReserved.mrdHi (o : Offset) :
    EncodeNotReserved.Statement (.mrdHi o) := fun v => by simp [encode, decode, readWord]

theorem EncodeNotReserved.mfetchLo (o : Offset) :
    EncodeNotReserved.Statement (.mfetchLo o) := fun v => by simp [encode, decode, readWord]

theorem EncodeNotReserved.mfetchHi (o : Offset) :
    EncodeNotReserved.Statement (.mfetchHi o) := fun v => by simp [encode, decode, readWord]

theorem EncodeNotReserved.mwrLo (o : Offset) (d : Byte) :
    EncodeNotReserved.Statement (.mwrLo o d) := fun v => by simp [encode, decode]

theorem EncodeNotReserved.mwrHi (o : Offset) (d : Byte) :
    EncodeNotReserved.Statement (.mwrHi o d) := fun v => by simp [encode, decode]

theorem EncodeNotReserved.outBsel (d : Byte) :
    EncodeNotReserved.Statement (.outBsel d) := fun _ => encodeNotReserved_write _ _ _

theorem EncodeNotReserved.outRb (d : Byte) :
    EncodeNotReserved.Statement (.outRb d) := fun _ => encodeNotReserved_write _ _ _

theorem EncodeNotReserved.outWin (d : Byte) :
    EncodeNotReserved.Statement (.outWin d) := fun _ => encodeNotReserved_write _ _ _

theorem EncodeNotReserved.inBsel :
    EncodeNotReserved.Statement .inBsel := fun _ => encodeNotReserved_read _ _

theorem EncodeNotReserved.inRb :
    EncodeNotReserved.Statement .inRb := fun _ => encodeNotReserved_read _ _

theorem EncodeNotReserved.inWin :
    EncodeNotReserved.Statement .inWin := fun _ => encodeNotReserved_read _ _

theorem EncodeNotReserved.outTrace (d : Byte) :
    EncodeNotReserved.Statement (.outTrace d) := fun _ => encodeNotReserved_write _ _ _

theorem EncodeNotReserved.inTrace :
    EncodeNotReserved.Statement .inTrace := fun _ => encodeNotReserved_read _ _

theorem EncodeNotReserved.inUnmapped (port : Byte) :
    EncodeNotReserved.Statement (.inUnmapped port) := fun _ => encodeNotReserved_read _ _

theorem EncodeNotReserved.outUnmapped (port : Byte) (d : Byte) :
    EncodeNotReserved.Statement (.outUnmapped port d) := fun _ => encodeNotReserved_write _ _ _

theorem EncodeNotReserved.inSioData (c : Channel) :
    EncodeNotReserved.Statement (.inSioData c) := fun _ => encodeNotReserved_read _ _

theorem EncodeNotReserved.outSioData (c : Channel) (d : Byte) :
    EncodeNotReserved.Statement (.outSioData c d) := fun _ => encodeNotReserved_write _ _ _

theorem EncodeNotReserved.inSioCtrl (c : Channel) :
    EncodeNotReserved.Statement (.inSioCtrl c) := fun _ => encodeNotReserved_read _ _

theorem EncodeNotReserved.outSioCmd0 (c : Channel) (crc : BitVec 2) (ptr : BitVec 3) :
    EncodeNotReserved.Statement (.outSioCmd0 c crc ptr) := fun _ => encodeNotReserved_write _ _ _

theorem EncodeNotReserved.outSioCmd1 (c : Channel) (crc : BitVec 2) (ptr : BitVec 3) :
    EncodeNotReserved.Statement (.outSioCmd1 c crc ptr) := fun _ => encodeNotReserved_write _ _ _

theorem EncodeNotReserved.outSioCmd2 (c : Channel) (crc : BitVec 2) (ptr : BitVec 3) :
    EncodeNotReserved.Statement (.outSioCmd2 c crc ptr) := fun _ => encodeNotReserved_write _ _ _

theorem EncodeNotReserved.outSioCmd3 (c : Channel) (crc : BitVec 2) (ptr : BitVec 3) :
    EncodeNotReserved.Statement (.outSioCmd3 c crc ptr) := fun _ => encodeNotReserved_write _ _ _

theorem EncodeNotReserved.outSioCmd4 (c : Channel) (crc : BitVec 2) (ptr : BitVec 3) :
    EncodeNotReserved.Statement (.outSioCmd4 c crc ptr) := fun _ => encodeNotReserved_write _ _ _

theorem EncodeNotReserved.outSioCmd5 (c : Channel) (crc : BitVec 2) (ptr : BitVec 3) :
    EncodeNotReserved.Statement (.outSioCmd5 c crc ptr) := fun _ => encodeNotReserved_write _ _ _

theorem EncodeNotReserved.outSioCmd6 (c : Channel) (crc : BitVec 2) (ptr : BitVec 3) :
    EncodeNotReserved.Statement (.outSioCmd6 c crc ptr) := fun _ => encodeNotReserved_write _ _ _

theorem EncodeNotReserved.outSioCmd7 (c : Channel) (crc : BitVec 2) (ptr : BitVec 3) :
    EncodeNotReserved.Statement (.outSioCmd7 c crc ptr) := fun _ => encodeNotReserved_write _ _ _

theorem EncodeNotReserved.outSioWrn (c : Channel) (d : Byte) :
    EncodeNotReserved.Statement (.outSioWrn c d) := fun _ => encodeNotReserved_write _ _ _

theorem EncodeNotReserved.inUartRbr (i : Nat) :
    EncodeNotReserved.Statement (.inUartRbr i) := fun _ => encodeNotReserved_read _ _

theorem EncodeNotReserved.inUartDll (i : Nat) :
    EncodeNotReserved.Statement (.inUartDll i) := fun _ => encodeNotReserved_read _ _

theorem EncodeNotReserved.inUartIer (i : Nat) :
    EncodeNotReserved.Statement (.inUartIer i) := fun _ => encodeNotReserved_read _ _

theorem EncodeNotReserved.inUartDlm (i : Nat) :
    EncodeNotReserved.Statement (.inUartDlm i) := fun _ => encodeNotReserved_read _ _

theorem EncodeNotReserved.inUartIir (i : Nat) :
    EncodeNotReserved.Statement (.inUartIir i) := fun _ => encodeNotReserved_read _ _

theorem EncodeNotReserved.inUartLcr (i : Nat) :
    EncodeNotReserved.Statement (.inUartLcr i) := fun _ => encodeNotReserved_read _ _

theorem EncodeNotReserved.inUartMcr (i : Nat) :
    EncodeNotReserved.Statement (.inUartMcr i) := fun _ => encodeNotReserved_read _ _

theorem EncodeNotReserved.inUartLsr (i : Nat) :
    EncodeNotReserved.Statement (.inUartLsr i) := fun _ => encodeNotReserved_read _ _

theorem EncodeNotReserved.inUartMsr (i : Nat) :
    EncodeNotReserved.Statement (.inUartMsr i) := fun _ => encodeNotReserved_read _ _

theorem EncodeNotReserved.inUartScr (i : Nat) :
    EncodeNotReserved.Statement (.inUartScr i) := fun _ => encodeNotReserved_read _ _

theorem EncodeNotReserved.outUartThr (i : Nat) (d : Byte) :
    EncodeNotReserved.Statement (.outUartThr i d) := fun _ => encodeNotReserved_write _ _ _

theorem EncodeNotReserved.outUartDll (i : Nat) (d : Byte) :
    EncodeNotReserved.Statement (.outUartDll i d) := fun _ => encodeNotReserved_write _ _ _

theorem EncodeNotReserved.outUartIer (i : Nat) (d : Byte) :
    EncodeNotReserved.Statement (.outUartIer i d) := fun _ => encodeNotReserved_write _ _ _

theorem EncodeNotReserved.outUartDlm (i : Nat) (d : Byte) :
    EncodeNotReserved.Statement (.outUartDlm i d) := fun _ => encodeNotReserved_write _ _ _

theorem EncodeNotReserved.outUartFcr (i : Nat) (d : Byte) :
    EncodeNotReserved.Statement (.outUartFcr i d) := fun _ => encodeNotReserved_write _ _ _

theorem EncodeNotReserved.outUartLcr (i : Nat) (d : Byte) :
    EncodeNotReserved.Statement (.outUartLcr i d) := fun _ => encodeNotReserved_write _ _ _

theorem EncodeNotReserved.outUartMcr (i : Nat) (d : Byte) :
    EncodeNotReserved.Statement (.outUartMcr i d) := fun _ => encodeNotReserved_write _ _ _

theorem EncodeNotReserved.outUartScr (i : Nat) (d : Byte) :
    EncodeNotReserved.Statement (.outUartScr i d) := fun _ => encodeNotReserved_write _ _ _

theorem EncodeNotReserved.outUartLsrMsr (i : Nat) (msr : Bool) (d : Byte) :
    EncodeNotReserved.Statement (.outUartLsrMsr i msr d) := fun _ => encodeNotReserved_write _ _ _

theorem EncodeNotReserved.inDbDlo :
    EncodeNotReserved.Statement .inDbDlo := fun _ => encodeNotReserved_read _ _

theorem EncodeNotReserved.inDbDhi :
    EncodeNotReserved.Statement .inDbDhi := fun _ => encodeNotReserved_read _ _

theorem EncodeNotReserved.inDbCtl :
    EncodeNotReserved.Statement .inDbCtl := fun _ => encodeNotReserved_read _ _

theorem EncodeNotReserved.inDbDir :
    EncodeNotReserved.Statement .inDbDir := fun _ => encodeNotReserved_read _ _

theorem EncodeNotReserved.outDbDlo (d : Byte) :
    EncodeNotReserved.Statement (.outDbDlo d) := fun _ => encodeNotReserved_write _ _ _

theorem EncodeNotReserved.outDbDhi (d : Byte) :
    EncodeNotReserved.Statement (.outDbDhi d) := fun _ => encodeNotReserved_write _ _ _

theorem EncodeNotReserved.outDbCtl (d : Byte) :
    EncodeNotReserved.Statement (.outDbCtl d) := fun _ => encodeNotReserved_write _ _ _

theorem EncodeNotReserved.outDbDir (d : Byte) :
    EncodeNotReserved.Statement (.outDbDir d) := fun _ => encodeNotReserved_write _ _ _

theorem EncodeNotReserved.evtTick :
    EncodeNotReserved.Statement .evtTick := fun v => by simp [encode, eventWord, decode, decodeEvent]

theorem EncodeNotReserved.evtPulse :
    EncodeNotReserved.Statement .evtPulse := fun v => by simp [encode, eventWord, decode, decodeEvent]

theorem EncodeNotReserved.evtPoll :
    EncodeNotReserved.Statement .evtPoll := fun v => by simp [encode, eventWord, decode, decodeEvent]

theorem EncodeNotReserved.evtReset :
    EncodeNotReserved.Statement .evtReset := fun v => by simp [encode, eventWord, decode, decodeEvent]

theorem EncodeNotReserved.evtCpuReset :
    EncodeNotReserved.Statement .evtCpuReset := fun v => by simp [encode, eventWord, decode, decodeEvent]

end Sys2Proof.Laws
end

