-- ==== Sys2Proof/Machine/Schedule.lean ====
section
/-! DEFINITION. The reference schedule: a batch of CPU cycles, its ticks and its close, and the repeat of batches
(46_events.md R392, R393). The block admits every other order too (R394): a state's inputs are any list. -/

namespace Sys2Proof.Machine

/-- A transaction of the CPU agent: every word but an event (00_scope.md R8a; 20_memory.md R96; 46_events.md R396). -/
inductive Transaction where
  | mrd (a : Addr)
  | mfetch (a : Addr)
  | mwr (a : Addr) (d : Byte)
  | iord (a : Addr)
  | iowr (a : Addr) (d : Byte)
deriving DecidableEq, Repr

/-- The word of a transaction (30_encoding.md R100). -/
def Transaction.word : Transaction → TWord
  | .mrd a => packWord 0#3 a 0#8
  | .mfetch a => packWord 1#3 a 0#8
  | .mwr a d => packWord 2#3 a d
  | .iord a => packWord 4#3 a 0#8
  | .iowr a d => packWord 5#3 a d

/-- What happens while the CPU runs: a transaction at the end of so many CPU cycles since the one before, or a host
action. The cycle counts are the CPU's, outside the block (00_scope.md R6). -/
inductive CpuInput where
  | transaction (cycles : Nat) (t : Transaction)
  | host (a : HostAction)
deriving DecidableEq, Repr

/-- The input of the machine it stands for. -/
def CpuInput.input : CpuInput → Input
  | .transaction _ t => .word t.word
  | .host a => .host a

/-- The CPU cycles it takes. -/
def CpuInput.cycles : CpuInput → Nat
  | .transaction n _ => n
  | .host _ => 0

/-- The inputs of the CPU's next `budget` cycles, and what is left, a transaction under way with the cycles it still
needs (46_events.md R392: the CPU runs `BATCH_CYCLES` cycles, any number of transactions). That cycles carry over a
batch's end, and that host actions fall into the earlier batch, is a DESIGN CHOICE (notes/assumptions/18.md). -/
def takeCycles : Nat → List CpuInput → List Input × List CpuInput
  | _, [] => ([], [])
  | budget, .host a :: r => (.host a :: (takeCycles budget r).1, (takeCycles budget r).2)
  | budget, .transaction n t :: r =>
    if n ≤ budget then (.word t.word :: (takeCycles (budget - n) r).1, (takeCycles (budget - n) r).2)
    else ([], .transaction (n - budget) t :: r)

/-- Go on from a next state; a stop stays a stop. -/
def thenRun (o : Host.Outcome State Fault Refusal) (f : State → Host.Outcome State Fault Refusal) :
    Host.Outcome State Fault Refusal :=
  match o with
  | .next s => f s
  | .fault r => .fault r
  | .refused r => .refused r

/-- One step for each input, given just before the step (20_memory.md R92, R96). -/
def runInputs : List Input → State → Host.Outcome State Fault Refusal
  | [], s => .next s
  | i :: is, s => thenRun (step { s with inbox := i :: s.inbox }) (runInputs is)

/-- The TICK events at the end of a batch (46_events.md R392). -/
def batchTicks (p : Schedule) : List Input := List.replicate p.ticksPerBatch (.word (eventWord 0x0000#16))

/-- What closes batch number `n`, counted from 1, in the state after its ticks: a POLL when `CHANGED` is set, a PULSE
every `PULSE_PERIOD` batches (46_events.md R392, R393). The spec gives a period of 0 no meaning; a schedule with it never
issues a PULSE: DESIGN CHOICE (notes/assumptions/18.md). -/
def batchClose (p : Schedule) (n : Nat) (s : State) : List Input :=
  (if s.changed then [.word (eventWord 0x0002#16)] else []) ++
    (if p.pulsePeriod ≠ 0 ∧ n % p.pulsePeriod = 0 then [.word (eventWord 0x0001#16)] else [])

/-- Batch number `n`: the CPU's cycles, the ticks, then the close on the state after them; the wall-clock sleep is
invisible to the block (46_events.md R392, R393). -/
def runBatch (p : Schedule) (n : Nat) (cpu : List CpuInput) (s : State) : Host.Outcome State Fault Refusal :=
  thenRun (runInputs (takeCycles p.batchCycles cpu).1 s) fun s1 =>
    thenRun (runInputs (batchTicks p) s1) fun s2 => runInputs (batchClose p n s2) s2

/-- The repeat of 46_events.md R392: `k` batches, the first one number `n`, each on what the CPU has left. -/
def runSchedule (p : Schedule) : (k n : Nat) → List CpuInput → State → Host.Outcome State Fault Refusal
  | 0, _, _, s => .next s
  | k + 1, n, cpu, s =>
    thenRun (runBatch p n cpu s) (runSchedule p k (n + 1) (takeCycles p.batchCycles cpu).2)

end Sys2Proof.Machine
end

