-- ==== Sys2Proof/Laws/Schedule.lean ====
section
/-! SUPPORT. What the reference schedule can do: the cycles and inputs of a batch, and that every batch and every repeat
of batches is a run of some list of inputs, so of an interleaving the block admits (46_events.md R392, R394). -/

namespace Sys2Proof.Machine

/-- A budget splits the inputs in order, loses none, and leaves the cycles beyond it. -/
theorem takeCycles_split (l : List CpuInput) : ∀ budget : Nat,
    (takeCycles budget l).1 ++ (takeCycles budget l).2.map CpuInput.input = l.map CpuInput.input ∧
    ((takeCycles budget l).2.map CpuInput.cycles).sum = (l.map CpuInput.cycles).sum - budget := by
  induction l with
  | nil => intro budget; simp [takeCycles]
  | cons x r ih =>
    intro budget
    cases x with
    | host a =>
      obtain ⟨h1, h2⟩ := ih budget
      exact ⟨by simp [takeCycles, h1, CpuInput.input], by simp [takeCycles, h2, CpuInput.cycles]⟩
    | transaction n t =>
      unfold takeCycles
      by_cases hn : n ≤ budget
      · obtain ⟨h1, h2⟩ := ih (budget - n)
        rw [if_pos hn]
        refine ⟨by simp [h1, CpuInput.input], ?_⟩
        simp only [h2, List.map_cons, List.sum_cons, CpuInput.cycles]
        omega
      · rw [if_neg hn]
        refine ⟨by simp [CpuInput.input], ?_⟩
        simp only [List.map_cons, List.sum_cons, CpuInput.cycles]
        omega

/-- A run that went on came from a next state. -/
theorem thenRun_inv {o : Host.Outcome State Fault Refusal} {f : State → Host.Outcome State Fault Refusal} {t : State}
    (h : thenRun o f = .next t) : ∃ s, o = .next s ∧ f s = .next t := by
  cases o with
  | next s => exact ⟨s, rfl, h⟩
  | fault r => cases h
  | refused r => cases h

/-- A list of inputs in two parts runs as the one part after the other. -/
theorem runInputs_append (a b : List Input) : ∀ s : State,
    runInputs (a ++ b) s = thenRun (runInputs a s) (runInputs b) := by
  induction a with
  | nil => intro s; rfl
  | cons i is ih =>
    intro s
    show thenRun (step { s with inbox := i :: s.inbox }) (runInputs (is ++ b)) =
      thenRun (thenRun (step { s with inbox := i :: s.inbox }) (runInputs is)) (runInputs b)
    cases step { s with inbox := i :: s.inbox } with
    | next t => exact ih t
    | fault r => rfl
    | refused r => rfl

/-- A batch that completes is the run of its CPU inputs, its ticks and its close (46_events.md R392). -/
theorem runBatch_inv {p : Schedule} {n : Nat} {cpu : List CpuInput} {s t : State} (h : runBatch p n cpu s = .next t) :
    ∃ u, runInputs ((takeCycles p.batchCycles cpu).1 ++ batchTicks p) s = .next u ∧
      runInputs ((takeCycles p.batchCycles cpu).1 ++ batchTicks p ++ batchClose p n u) s = .next t := by
  obtain ⟨s1, h1, h⟩ := thenRun_inv h
  obtain ⟨u, h2, h⟩ := thenRun_inv h
  have hu : runInputs ((takeCycles p.batchCycles cpu).1 ++ batchTicks p) s = .next u := by
    rw [runInputs_append, h1]; exact h2
  exact ⟨u, hu, by rw [runInputs_append, hu]; exact h⟩

/-- The reference schedule is one of the interleavings the block admits (46_events.md R394). -/
theorem runSchedule_admitted {p : Schedule} (k : Nat) : ∀ {n : Nat} {cpu : List CpuInput} {s t : State},
    runSchedule p k n cpu s = .next t → ∃ is, runInputs is s = .next t := by
  induction k with
  | zero => intro n cpu s t h; exact ⟨[], h⟩
  | succ k ih =>
    intro n cpu s t h
    obtain ⟨u, hu, h⟩ := thenRun_inv h
    obtain ⟨v, -, h1⟩ := runBatch_inv hu
    obtain ⟨is, h2⟩ := ih h
    exact ⟨_ ++ is, by rw [runInputs_append, h1]; exact h2⟩

end Sys2Proof.Machine
end

