-- ==== Sys2Proof/Machine/Pseudo.lean ====
section
/-! DEFINITION. The pseudo-operations of the spec's assembler, each the list of its words (30_encoding.md R114). -/

namespace Sys2Proof.Machine

/-- `SIOCMD ch, n`. -/
def pseudoSioCmd (cfg : Config) (c : Channel) (n : BitVec 3) : List TWord :=
  [outWord (sioCtrlPort cfg c) (wr0Byte 0#2 n 0#3)]

/-- `SIOWR ch, r, v`, for r in 1 to 7. -/
def pseudoSioWr (cfg : Config) (c : Channel) (r : BitVec 3) (v : Byte) : List TWord :=
  [outWord (sioCtrlPort cfg c) (wr0Byte 0#2 0#3 r), outWord (sioCtrlPort cfg c) v]

/-- `SIORR ch, r`, for r in 0 to 2. -/
def pseudoSioRr (cfg : Config) (c : Channel) (r : BitVec 3) : List TWord :=
  [outWord (sioCtrlPort cfg c) (wr0Byte 0#2 0#3 r), inWord (sioCtrlPort cfg c)]

/-- `SIORX ch`. -/
def pseudoSioRx (cfg : Config) (c : Channel) : List TWord := [inWord (sioDataPort cfg c)]

/-- `SIOTX ch, v`. -/
def pseudoSioTx (cfg : Config) (c : Channel) (v : Byte) : List TWord := [outWord (sioDataPort cfg c) v]

/-- `UARTDIV div, lcr` on instance `i`. -/
def pseudoUartDiv (cfg : Config) (i : Nat) (div : Half) (lcr : Byte) : List TWord :=
  [outWord (uartPort cfg i 3) (lcr ||| 0x80), outWord (uartPort cfg i 0) (div.extractLsb' 0 8),
    outWord (uartPort cfg i 1) (div.extractLsb' 8 8), outWord (uartPort cfg i 3) (lcr &&& 0x7F)]

/-- The control byte that addresses device register `sel`: `sel[2:0] | sel[3] << 4`. -/
def pseudoDbControl (sel : BitVec 4) : Byte :=
  (sel.extractLsb' 0 3).setWidth 8 ||| ((sel.extractLsb' 3 1).setWidth 8 <<< 4)

/-- `DBWRITE sel, v`. -/
def pseudoDbWrite (cfg : Config) (sel : BitVec 4) (v : Half) : List TWord :=
  let c := pseudoDbControl sel
  [outWord cfg.dbBase (v.extractLsb' 0 8), outWord (cfg.dbBase + 1) (v.extractLsb' 8 8),
    outWord (cfg.dbBase + 2) c, outWord (cfg.dbBase + 2) (c ||| 0x20), outWord (cfg.dbBase + 2) c]

/-- `DBREAD sel`. -/
def pseudoDbRead (cfg : Config) (sel : BitVec 4) : List TWord :=
  let c := pseudoDbControl sel
  [outWord (cfg.dbBase + 2) c, outWord (cfg.dbBase + 2) (c ||| 0x40), outWord (cfg.dbBase + 2) c,
    inWord cfg.dbBase, inWord (cfg.dbBase + 1)]

/-- `DBRESET`. -/
def pseudoDbReset (cfg : Config) : List TWord := [outWord (cfg.dbBase + 2) 0x80, outWord (cfg.dbBase + 2) 0x00]

/-- `SETBANK n` (FLAT). -/
def pseudoSetBank (cfg : Config) (n : Byte) : List TWord := [outWord cfg.portBank n]

/-- `SETBANK2 n, m` (DUAL). -/
def pseudoSetBank2 (cfg : Config) (n m : Byte) : List TWord := [outWord cfg.portBank n, outWord cfg.portWin m]

/-- `RETIAT a`: the two fetches of a RETI sequence in storage at `a`. `a + 1` wraps to 0x0000 after 0xFFFF: DESIGN CHOICE,
the spec does not say (notes/assumptions/26.md). -/
def pseudoRetiAt (a : Addr) : List TWord := [packWord 1#3 a 0#8, packWord 1#3 (a + 1) 0#8]

end Sys2Proof.Machine
end

