-- ==== Sys2Proof/Tests/Slice0.lean ====
section
/-! SUPPORT. The model's own tests: ill-formed operations, words written out from the encodings of 30_encoding.md and
spec/opcode_table.json, one-step tests after 95_test_vectors.md, and a witness for the hypotheses of every statement. -/

namespace Sys2Proof.Tests

open Sys2Proof.Machine

/-- A part of the next state; none where the machine stopped. -/
def after {α : Type} (o : Host.Outcome State Fault Refusal) (f : State → α) : Option α :=
  match o with
  | .next s => some (f s)
  | _ => none

/-- Why the machine refused. -/
def why (o : Host.Outcome State Fault Refusal) : Option Refusal :=
  match o with
  | .refused r => some r
  | _ => none

/-- The machine stopped because a host readiness check failed. -/
def brokenHost (o : Host.Outcome State Fault Refusal) : Bool :=
  match o with
  | .fault .hostReadinessFailed => true
  | _ => false

/-- What a word decodes to in a view. -/
def reads (v : DecodeView) (t : TWord) : Option Instr :=
  match decode v t with
  | .ok i => some i
  | .error _ => none

/-! Views and small states. -/

def dualView : DecodeView := ⟨Config.defaultDual, 0#3, 0#3, [false]⟩
def pointedView : DecodeView := ⟨Config.default, 2#3, 7#3, [false]⟩
def latchView : DecodeView := ⟨Config.default, 0#3, 0#3, [true]⟩
def smallBridgeView : DecodeView := ⟨{ dbSize := 1 }, 0#3, 0#3, [false]⟩
def twoPortBridgeView : DecodeView := ⟨{ dbSize := 2 }, 0#3, 0#3, [false]⟩
def noUartView : DecodeView := ⟨{ uarts := [] }, 0#3, 0#3, []⟩

def reset : State := State.reset
def dualReset : State := { reset with cfg := Config.defaultDual }
/-- DUAL with 3 index bits. -/
def narrowReset : State := { reset with cfg := { scheme := .dual, dualIdxBits := 3, dualCommon := 7 } }
def platformReset : State := { reset with cfg := { Config.defaultDual with dualMap := .platform } }

/-- `ED 4D` at offset 0x0100 of the common bank 15, and 0xA3 at offset 0x0010 of bank 3. -/
def stored : State := { reset with flat := [(98320, 0xA3), (491776, 0xED), (491777, 0x4D)] }

/-- Channel A on in every-character mode, channel B with vector base 0x40 and status affects vector. -/
def serial : State :=
  { reset with
    sioA := { SioChannel.reset with wr := #v[0x01, 0x10, 0x00, 0x01, 0x00, 0x00, 0x00, 0x00] }
    sioB := { SioChannel.reset with wr := #v[0x01, 0x04, 0x40, 0x00, 0x00, 0x00, 0x00, 0x00] } }

/-- `serial` with a queue on channel A, RXA pending and the line asserted. -/
def serialHolding (q : List Byte) : State :=
  { serial with
    sioA := { serial.sioA with q := q, pendRxa := true }
    sioAsserted := true
    sioVec := 0x4C }

/-- `reset` with other registers in UART 0. -/
def withUart (u : Uart) : State := { reset with uarts := [{ uart := u, line := HostLine.quiet }] }

/-- The registers of UART 0 after power-on. -/
def uart0 : Uart := Uart.reset 0x30

/-- A bound line offering bytes. -/
def offering (q : List Byte) : HostLine := { HostLine.quiet with rx := q }

/-- The registers of UART 0 of a state. -/
def u0 (s : State) : Option Uart := (s.uarts[0]?).map UartUnit.uart

/-- `reset` with other disk-bridge registers and a device attached. -/
def withBridge (b : DiskBridge) (answers : List Half) : State :=
  { reset with db := b, dev := { attached := true, answers := answers } }

/-! Ill-formed operations: one for each check of `Instr.wellFormed`. -/

theorem test_illFormed_scheme_flat : Instr.wellFormed dualView (.outBsel 0x01) = false ∧
    Instr.wellFormed dualView .inBsel = false := by decide
theorem test_illFormed_scheme_dual : Instr.wellFormed resetView (.outRb 0x01) = false ∧
    Instr.wellFormed resetView (.outWin 0x01) = false ∧ Instr.wellFormed resetView .inRb = false ∧
    Instr.wellFormed resetView .inWin = false := by decide
theorem test_illFormed_mapped_port : Instr.wellFormed resetView (.inUnmapped 0x80) = false ∧
    Instr.wellFormed resetView (.outUnmapped 0x27 0x00) = false := by decide
theorem test_illFormed_pointer_not_zero : Instr.wellFormed pointedView (.outSioCmd0 .a 0 0) = false ∧
    Instr.wellFormed pointedView (.outSioCmd1 .a 0 0) = false ∧ Instr.wellFormed pointedView (.outSioCmd2 .a 0 0) = false ∧
    Instr.wellFormed pointedView (.outSioCmd3 .b 0 0) = false ∧ Instr.wellFormed pointedView (.outSioCmd4 .b 0 0) = false ∧
    Instr.wellFormed pointedView (.outSioCmd5 .b 0 0) = false ∧ Instr.wellFormed pointedView (.outSioCmd6 .a 0 0) = false ∧
    Instr.wellFormed pointedView (.outSioCmd7 .a 0 0) = false := by decide
theorem test_illFormed_pointer_zero : Instr.wellFormed resetView (.outSioWrn .a 0x00) = false := by decide
theorem test_illFormed_latch_set : Instr.wellFormed latchView (.inUartRbr 0) = false ∧
    Instr.wellFormed latchView (.inUartIer 0) = false ∧ Instr.wellFormed latchView (.outUartThr 0 0x00) = false ∧
    Instr.wellFormed latchView (.outUartIer 0 0x00) = false := by decide
theorem test_illFormed_latch_clear : Instr.wellFormed resetView (.inUartDll 0) = false ∧
    Instr.wellFormed resetView (.inUartDlm 0) = false ∧ Instr.wellFormed resetView (.outUartDll 0 0x00) = false ∧
    Instr.wellFormed resetView (.outUartDlm 0 0x00) = false := by decide
theorem test_illFormed_no_uart : Instr.wellFormed noUartView (.inUartRbr 0) = false ∧
    Instr.wellFormed resetView (.inUartIir 1) = false ∧ Instr.wellFormed resetView (.outUartScr 1 0x00) = false ∧
    Instr.wellFormed noUartView (.outUartLsrMsr 0 true 0x00) = false := by decide
theorem test_illFormed_bridge_too_small : Instr.wellFormed smallBridgeView .inDbDhi = false ∧
    Instr.wellFormed smallBridgeView (.outDbDhi 0x00) = false ∧ Instr.wellFormed twoPortBridgeView .inDbCtl = false ∧
    Instr.wellFormed twoPortBridgeView .inDbDir = false ∧ Instr.wellFormed twoPortBridgeView (.outDbCtl 0x00) = false ∧
    Instr.wellFormed twoPortBridgeView (.outDbDir 0x00) = false := by decide

/-! Words written out bit by bit: kind, address, data. -/

theorem test_decode_memory :
    reads resetView 0b000_0001001000110100_00000000#27 = some (.mrdLo 0x1234) ∧
    reads resetView 0b000_1111111111111111_00000000#27 = some (.mrdHi 0x7FFF) ∧
    reads resetView 0b001_0000000100000000_00000000#27 = some (.mfetchLo 0x0100) ∧
    reads resetView 0b001_1000000000000001_00000000#27 = some (.mfetchHi 0x0001) ∧
    reads resetView 0b010_0111111111111111_01010101#27 = some (.mwrLo 0x7FFF 0x55) ∧
    reads resetView 0b010_1000000000000000_10101010#27 = some (.mwrHi 0x0000 0xAA) := by decide
theorem test_decode_bank_ports :
    reads resetView 0b101_0000000001111000_00000101#27 = some (.outBsel 0x05) ∧
    reads resetView 0b100_0000000001111000_00000000#27 = some .inBsel ∧
    reads dualView 0b101_0000000001111000_00100101#27 = some (.outRb 0x25) ∧
    reads dualView 0b101_0000000001111100_00000001#27 = some (.outWin 0x01) ∧
    reads dualView 0b100_0000000001111000_00000000#27 = some .inRb ∧
    reads dualView 0b100_0000000001111100_00000000#27 = some .inWin := by decide
theorem test_decode_trace_and_unmapped :
    reads resetView 0b101_0000000011111101_00110011#27 = some (.outTrace 0x33) ∧
    reads resetView 0b100_0000000011111101_00000000#27 = some .inTrace ∧
    reads resetView 0b100_0000000000000000_00000000#27 = some (.inUnmapped 0x00) ∧
    reads resetView 0b101_0000000010000100_01010101#27 = some (.outUnmapped 0x84 0x55) ∧
    reads resetView 0b100_0000000001111100_00000000#27 = some (.inUnmapped 0x7C) := by decide
theorem test_decode_serial :
    reads resetView 0b100_0000000010000001_00000000#27 = some (.inSioData .a) ∧
    reads resetView 0b100_0000000010000011_00000000#27 = some (.inSioData .b) ∧
    reads resetView 0b101_0000000010000011_01001000#27 = some (.outSioData .b 0x48) ∧
    reads resetView 0b100_0001001010000000_00000000#27 = some (.inSioCtrl .a) ∧
    reads resetView 0b100_0000000010000010_00000000#27 = some (.inSioCtrl .b) ∧
    reads pointedView 0b101_0000000010000000_01000000#27 = some (.outSioWrn .a 0x40) ∧
    reads pointedView 0b101_0000000010000010_00011000#27 = some (.outSioWrn .b 0x18) := by decide
theorem test_decode_serial_commands :
    reads resetView 0b101_0000000010000000_11000001#27 = some (.outSioCmd0 .a 3 1) ∧
    reads resetView 0b101_0000000010000010_00001010#27 = some (.outSioCmd1 .b 0 2) ∧
    reads resetView 0b101_0000000010000000_01010111#27 = some (.outSioCmd2 .a 1 7) ∧
    reads resetView 0b101_0000000010000010_00011001#27 = some (.outSioCmd3 .b 0 1) ∧
    reads resetView 0b101_0000000010000000_00100000#27 = some (.outSioCmd4 .a 0 0) ∧
    reads resetView 0b101_0000000010000010_10101000#27 = some (.outSioCmd5 .b 2 0) ∧
    reads resetView 0b101_0000000010000000_00110011#27 = some (.outSioCmd6 .a 0 3) ∧
    reads resetView 0b101_0000000010000000_00111000#27 = some (.outSioCmd7 .a 0 0) := by decide
theorem test_decode_uart_reads :
    reads resetView 0b100_0000000010100000_00000000#27 = some (.inUartRbr 0) ∧
    reads latchView 0b100_0000000010100000_00000000#27 = some (.inUartDll 0) ∧
    reads resetView 0b100_0000000010100001_00000000#27 = some (.inUartIer 0) ∧
    reads latchView 0b100_0000000010100001_00000000#27 = some (.inUartDlm 0) ∧
    reads resetView 0b100_0000000010100010_00000000#27 = some (.inUartIir 0) ∧
    reads resetView 0b100_0000000010100011_00000000#27 = some (.inUartLcr 0) ∧
    reads resetView 0b100_0000000010100100_00000000#27 = some (.inUartMcr 0) ∧
    reads resetView 0b100_0000000010100101_00000000#27 = some (.inUartLsr 0) ∧
    reads resetView 0b100_0000000010100110_00000000#27 = some (.inUartMsr 0) ∧
    reads latchView 0b100_0000000010100111_00000000#27 = some (.inUartScr 0) := by decide
theorem test_decode_uart_writes :
    reads resetView 0b101_0000000010100000_01000001#27 = some (.outUartThr 0 0x41) ∧
    reads latchView 0b101_0000000010100000_00001100#27 = some (.outUartDll 0 0x0C) ∧
    reads resetView 0b101_0000000010100001_00000011#27 = some (.outUartIer 0 0x03) ∧
    reads latchView 0b101_0000000010100001_00000001#27 = some (.outUartDlm 0 0x01) ∧
    reads resetView 0b101_0000000010100010_00000111#27 = some (.outUartFcr 0 0x07) ∧
    reads resetView 0b101_0000000010100011_10000000#27 = some (.outUartLcr 0 0x80) ∧
    reads resetView 0b101_0000000010100100_00010000#27 = some (.outUartMcr 0 0x10) ∧
    reads resetView 0b101_0000000010100101_11111111#27 = some (.outUartLsrMsr 0 false 0xFF) ∧
    reads resetView 0b101_0000000010100110_00000000#27 = some (.outUartLsrMsr 0 true 0x00) ∧
    reads resetView 0b101_0000000010100111_01011010#27 = some (.outUartScr 0 0x5A) := by decide
theorem test_decode_disk_bridge :
    reads resetView 0b100_0000000000100000_00000000#27 = some .inDbDlo ∧
    reads resetView 0b100_0000000000100001_00000000#27 = some .inDbDhi ∧
    reads resetView 0b100_0000000000100110_00000000#27 = some .inDbCtl ∧
    reads resetView 0b100_0000000000100011_00000000#27 = some .inDbDir ∧
    reads resetView 0b101_0000000000100100_00010001#27 = some (.outDbDlo 0x11) ∧
    reads resetView 0b101_0000000000100001_00010010#27 = some (.outDbDhi 0x12) ∧
    reads resetView 0b101_0000000000100010_00100001#27 = some (.outDbCtl 0x21) ∧
    reads resetView 0b101_0000000000100111_10010010#27 = some (.outDbDir 0x92) := by decide
theorem test_decode_events :
    reads resetView 0b110_0000000000000000_00000000#27 = some .evtTick ∧
    reads resetView 0b110_0000000000000001_00000000#27 = some .evtPulse ∧
    reads resetView 0b110_0000000000000010_00000000#27 = some .evtPoll ∧
    reads resetView 0b110_0000000000000011_00000000#27 = some .evtReset ∧
    reads resetView 0b110_0000000000000100_00000000#27 = some .evtCpuReset := by decide
/-- 95_test_vectors.md T13 to T17. -/
theorem test_decode_reserved :
    reads resetView 0x3000000#27 = none ∧ reads resetView 0x7000000#27 = none ∧ reads resetView 0x6000500#27 = none ∧
    reads resetView 0x6000001#27 = none ∧ reads resetView 0x0123401#27 = none := by decide
theorem test_decodeTableWord : decodeTableWord 32 0x4008100 = some (.inSioData .a) ∧
    decodeTableWord 32 0x3000000 = none ∧ decodeTableWord 32 0xC008100 = none := by decide
/-- A reserved word that is stepped on is refused. -/
theorem test_step_reserved : why (step (reset.withFetchWord 32 0x7000000)) = some (.reservedWord .kind7) := by decide
/-- A word given to the reset machine runs at the next step. -/
theorem test_step_runs_a_word :
    after (step (reset.withFetchWord 32 0x5007805)) (fun s => (s.bsel, s.inbox)) = some (0x05, []) := by decide

/-! One step of each operation. -/

/-- BK6, BK9: bank 3 of FLAT, address 0x0010. -/
theorem test_mrdLo : after (exec (.mrdLo 0x0010) { stored with bsel := 0x13 }) State.result = some (some 0xA3) := by decide
theorem test_mrdHi : after (exec (.mrdHi 0x0100) { stored with bsel := 0x13 }) State.result = some (some 0xED) := by decide
theorem test_mfetchLo : after (exec (.mfetchLo 0x0100) { stored with bsel := 0x0F }) (fun s => (s.result, s.sniff)) =
    some (some 0xED, .afterEd) := by decide
/-- RD1: the second byte of a return. -/
theorem test_mfetchHi : after (exec (.mfetchHi 0x0101) { stored with sniff := .afterEd })
    (fun s => (s.result, s.sniff, s.events)) = some (some 0x4D, .idle, [.cpuReset, .reti]) := by decide
/-- BK8: a write to ROM is discarded. -/
theorem test_mwrLo_rom : after (exec (.mwrLo 0x0000 0x12) reset) State.flat = some [] := by decide
theorem test_mwrLo_ram : after (exec (.mwrLo 0x0010 0x99) { dualReset with rb := 0x25, win := 0x01 }) State.ram =
    some [(163856, 0x99)] := by decide
theorem test_mwrHi : after (exec (.mwrHi 0x7FFF 0x12) reset) State.flat = some [(524287, 0x12)] := by decide
theorem test_mwrHi_unlisted_value : after (exec (.mwrHi 0x0100 0x00) stored) State.flat =
    some [(98320, 0xA3), (491777, 0x4D)] := by decide
theorem test_outBsel : after (exec (.outBsel 0xFF) reset) State.bsel = some 0xFF := by decide
theorem test_outRb : after (exec (.outRb 0x25) dualReset) (fun s => (s.rb, s.win)) = some (0x25, 0x00) := by decide
theorem test_outWin : after (exec (.outWin 0x01) dualReset) (fun s => (s.rb, s.win)) = some (0x00, 0x01) := by decide
theorem test_inBsel : after (exec .inBsel reset) (fun s => (s.bsel, s.draws)) = some (0x00, 1) := by decide
theorem test_inRb : after (exec .inRb dualReset) (fun s => (s.rb, s.draws)) = some (0x00, 1) := by decide
theorem test_inWin : after (exec .inWin dualReset) (fun s => (s.win, s.draws)) = some (0x00, 1) := by decide
/-- PM1, PM4. -/
theorem test_trace_port : after (exec (.outTrace 0x33) reset) State.traceMask = some 0x33 ∧
    after (exec .inTrace { reset with traceMask := 0x33 }) State.result = some (some 0xFF) := by decide
theorem test_unmapped_port : after (exec (.inUnmapped 0x00) reset) State.result = some (some 0xFF) ∧
    after (exec (.outUnmapped 0x00 0x55) reset) (fun s => decide (s = reset)) = some true := by decide
/-- S3 and S11: the oldest byte first; the last byte clears RXA. -/
theorem test_inSioData : after (exec (.inSioData .a) (serialHolding [1, 2])) (fun s => (s.result, s.sioA.q, s.sioA.pendRxa)) =
    some (some 1, [2], true) := by decide
theorem test_inSioData_last : after (exec (.inSioData .a) (serialHolding [1]))
    (fun s => (s.sioA.q, s.sioA.pendRxa, s.sioAsserted)) = some ([], false, true) := by decide
/-- S12. -/
theorem test_outSioData : after (exec (.outSioData .a 0x48) reset) (fun s => (s.lineA.tx, s.events)) =
    some ([0x48], [.cpuReset, .txByte (.sio .a) 0x48]) := by decide
/-- S2 and S13: RR0 with a byte and the line asserted; RR0 at power-on. -/
theorem test_inSioCtrl_rr0 : after (exec (.inSioCtrl .a) (serialHolding [1, 2])) State.result = some (some 0x2F) ∧
    after (exec (.inSioCtrl .b) reset) State.result = some (some 0x2C) := by decide
/-- S3: RR1 after an overrun; RR2 of channel B. -/
theorem test_inSioCtrl_rr : after (exec (.inSioCtrl .a) { reset with sioA := { SioChannel.reset with ptr := 1, ovr := true } })
      (fun s => (s.result, s.sioA.ptr)) = some (some 0x21, 0) ∧
    after (exec (.inSioCtrl .b) { serialHolding [1] with sioB := { serial.sioB with ptr := 2 } }) State.result =
      some (some 0x4C) := by decide
theorem test_outSioCmd0 : after (exec (.outSioCmd0 .a 3 1) reset) (fun s => (s.sioA.wr[0], s.sioA.ptr)) =
    some (0xC1, 1) := by decide
theorem test_outSioCmd1 : after (exec (.outSioCmd1 .b 0 2) reset) (fun s => (s.sioB.wr[0], s.sioB.ptr)) =
    some (0x0A, 2) := by decide
theorem test_outSioCmd2 : after (exec (.outSioCmd2 .a 0 7) reset) (fun s => (s.sioA.wr[0], s.sioA.ptr)) =
    some (0x17, 7) := by decide
/-- S9, S10: channel reset, then the pointer; the line stays asserted. -/
theorem test_outSioCmd3 : after (exec (.outSioCmd3 .a 0 1) (serialHolding [1, 2]))
    (fun s => (s.sioA.q, s.sioA.wr[3], s.sioA.pendRxa, s.sioA.ptr, s.sioAsserted)) =
    some ([], 0x00, false, 1, true) := by decide
/-- S5: re-arm. -/
theorem test_outSioCmd4 : after (exec (.outSioCmd4 .a 0 0) { reset with sioA := { SioChannel.reset with arm := false } })
    (fun s => s.sioA.arm) = some true := by decide
theorem test_outSioCmd5 : after (exec (.outSioCmd5 .b 2 0) reset) (fun s => (s.sioB.wr[0], s.sioB.ptr)) =
    some (0xA8, 0) := by decide
/-- S4: error reset. -/
theorem test_outSioCmd6 : after (exec (.outSioCmd6 .a 0 0)
      { reset with sioA := { SioChannel.reset with ovr := true, pendErr := true } })
    (fun s => (s.sioA.ovr, s.sioA.pendErr)) = some (false, false) := by decide
/-- S11: a return with nothing pending releases the line. -/
theorem test_outSioCmd7 : after (exec (.outSioCmd7 .a 0 0) { serial with sioAsserted := true }) State.sioAsserted =
    some false := by decide
theorem test_outSioCmd7_pending : after (exec (.outSioCmd7 .a 0 0) (serialHolding [1]))
    (fun s => (s.sioAsserted, s.sioVec)) = some (true, 0x4C) := by decide
theorem test_outSioWrn : after (exec (.outSioWrn .b 0x40) { reset with sioB := { SioChannel.reset with ptr := 2 } })
    (fun s => (s.sioB.wr[2], s.sioB.ptr)) = some (0x40, 0) := by decide
theorem test_outSioWrn_arms : after (exec (.outSioWrn .a 0x08)
      { reset with sioA := { SioChannel.reset with ptr := 1, arm := false } })
    (fun s => (s.sioA.wr[1], s.sioA.arm)) = some (0x08, true) := by decide
/-- U4: the holding register empties and keeps its byte. -/
theorem test_inUartRbr : after (exec (.inUartRbr 0) (withUart { uart0 with rbr := 0x61, lsr := 0x61, pendRx := true }))
    (fun s => (s.result, (u0 s).map fun u => (u.rbr, u.lsr, u.pendRx))) =
    some (some 0x61, some (0x61, 0x60, false)) := by decide
theorem test_inUartDll : after (exec (.inUartDll 0) (withUart { uart0 with dll := 0x0C })) State.result =
    some (some 0x0C) := by decide
theorem test_inUartIer : after (exec (.inUartIer 0) (withUart { uart0 with ier := 0x0F })) State.result =
    some (some 0x0F) := by decide
theorem test_inUartDlm : after (exec (.inUartDlm 0) (withUart { uart0 with dlm := 0x01 })) State.result =
    some (some 0x01) := by decide
/-- U6: a reported THRE is acknowledged. -/
theorem test_inUartIir_thre : after (exec (.inUartIir 0) (withUart { uart0 with pendThre := true, pendMs := true }))
    (fun s => (s.result, (u0 s).map fun u => (u.pendThre, u.pendMs))) = some (some 0x02, some (false, true)) := by decide
/-- U5: a reported RX stays. -/
theorem test_inUartIir_rx : after (exec (.inUartIir 0) (withUart { uart0 with pendRx := true, pendThre := true }))
    (fun s => (s.result, (u0 s).map fun u => (u.pendRx, u.pendThre))) = some (some 0x04, some (true, true)) := by decide
theorem test_inUartLcr : after (exec (.inUartLcr 0) (withUart { uart0 with lcr := 0x83 })) State.result =
    some (some 0x83) := by decide
theorem test_inUartMcr : after (exec (.inUartMcr 0) (withUart { uart0 with mcr := 0x10 })) State.result =
    some (some 0x10) := by decide
theorem test_inUartLsr : after (exec (.inUartLsr 0) (withUart { uart0 with lsr := 0x7F }))
    (fun s => (s.result, (u0 s).map Uart.lsr)) = some (some 0x7F, some 0x61) := by decide
/-- U8. -/
theorem test_inUartMsr : after (exec (.inUartMsr 0) (withUart { uart0 with msr := 0xB8, pendMs := true }))
    (fun s => (s.result, (u0 s).map fun u => (u.msr, u.pendMs))) = some (some 0xB8, some (0xB0, false)) := by decide
theorem test_inUartScr : after (exec (.inUartScr 0) (withUart { uart0 with scr := 0x5A })) State.result =
    some (some 0x5A) := by decide
theorem test_outUartThr : after (exec (.outUartThr 0 0x41) (withUart { uart0 with pendThre := true }))
    (fun s => (s.uarts.map fun n => (n.line.tx, n.uart.pendThre), s.events)) =
    some ([([0x41], false)], [.cpuReset, .txByte (.uart 0) 0x41]) := by decide
theorem test_outUartDll : after (exec (.outUartDll 0 0x0C) reset) (fun s => (u0 s).map Uart.dll) = some (some 0x0C) := by
  decide
/-- U3, U5: four bits are held, and a disabled pending bit clears. -/
theorem test_outUartIer : after (exec (.outUartIer 0 0xFE) (withUart { uart0 with pendRx := true, pendThre := true }))
    (fun s => (u0 s).map fun u => (u.ier, u.pendRx, u.pendThre)) = some (some (0x0E, false, true)) := by decide
theorem test_outUartDlm : after (exec (.outUartDlm 0 0x01) reset) (fun s => (u0 s).map Uart.dlm) = some (some 0x01) := by
  decide
theorem test_outUartFcr : after (exec (.outUartFcr 0 0x07) reset) (fun s => (u0 s).map Uart.fcr) = some (some 0x07) := by
  decide
theorem test_outUartLcr : after (exec (.outUartLcr 0 0x80) reset) (fun s => (u0 s).map Uart.lcr) = some (some 0x80) := by
  decide
theorem test_outUartMcr : after (exec (.outUartMcr 0 0x10) reset) (fun s => (u0 s).map Uart.mcr) = some (some 0x10) := by
  decide
theorem test_outUartScr : after (exec (.outUartScr 0 0x5A) reset) (fun s => (u0 s).map Uart.scr) = some (some 0x5A) := by
  decide
theorem test_outUartLsrMsr : after (exec (.outUartLsrMsr 0 false 0xFF) reset) (fun s => (u0 s).map Uart.lsr) =
      some (some 0x60) ∧
    after (exec (.outUartLsrMsr 0 true 0x00) reset) (fun s => (u0 s).map Uart.msr) = some (some 0x30) := by decide
theorem test_bridge_reads :
    after (exec .inDbDlo (withBridge ⟨0x11, 0x22, 0x33, 0x44, 0x33⟩ [])) State.result = some (some 0x11) ∧
    after (exec .inDbDhi (withBridge ⟨0x11, 0x22, 0x33, 0x44, 0x33⟩ [])) State.result = some (some 0x22) ∧
    after (exec .inDbCtl (withBridge ⟨0x11, 0x22, 0x33, 0x44, 0x33⟩ [])) State.result = some (some 0x33) ∧
    after (exec .inDbDir (withBridge ⟨0x11, 0x22, 0x33, 0x44, 0x33⟩ [])) State.result = some (some 0x44) := by decide
theorem test_bridge_writes :
    after (exec (.outDbDlo 0x34) reset) State.db = some ⟨0x34, 0x00, 0x00, 0x00, 0x00⟩ ∧
    after (exec (.outDbDhi 0x12) reset) State.db = some ⟨0x00, 0x12, 0x00, 0x00, 0x00⟩ ∧
    after (exec (.outDbDir 0x92) reset) State.db = some ⟨0x00, 0x00, 0x00, 0x92, 0x00⟩ := by decide
/-- DB1: one write transfer, at the rising edge. -/
theorem test_outDbCtl_write : after (exec (.outDbCtl 0x21) (withBridge ⟨0x34, 0x12, 0x00, 0x00, 0x00⟩ []))
    (fun s => (s.events, s.db)) = some ([.cpuReset, .devWrite16 1 0x1234], ⟨0x34, 0x12, 0x21, 0x00, 0x21⟩) := by decide
/-- DB5: `sel = 1 + 8 * OFS`; the answer lands in the data registers. -/
theorem test_outDbCtl_read : after (exec (.outDbCtl 0x51) (withBridge DiskBridge.reset [0x0102]))
    (fun s => (s.events, s.db)) = some ([.cpuReset, .devRead16 9 0x0102], ⟨0x02, 0x01, 0x51, 0x00, 0x51⟩) := by decide
/-- U4, S2: one byte into each receiver. -/
theorem test_evtTick : after (exec .evtTick { serial with lineA := offering [0x41, 0x42] })
    (fun s => (s.sioA.q, s.lineA.rx, s.sioAsserted, s.sioVec)) = some ([0x41], [0x42], true, 0x4C) := by decide
theorem test_evtTick_uart : after (exec .evtTick { reset with uarts := [⟨uart0, offering [0x61, 0x62]⟩] })
    (fun s => s.uarts.map fun n => (n.uart.rbr, n.uart.lsr, n.line.rx)) = some [(0x61, 0x61, [0x62])] := by decide
/-- U8, U9. -/
theorem test_evtPulse : after (exec .evtPulse { withUart { uart0 with ier := 0x08 } with cfg := { pulseEnabled := true } })
      (fun s => (u0 s).map fun u => (u.msr, u.pendMs)) = some (some (0xB8, true)) ∧
    after (exec .evtPulse (withUart { uart0 with ier := 0x08 })) (fun s => (u0 s).map Uart.msr) = some (some 0x30) := by
  decide
/-- AR1: the serial controller outranks UART 0. -/
theorem test_evtPoll : after (exec .evtPoll { serialHolding [1] with uarts := [⟨{ uart0 with pendThre := true }, HostLine.quiet⟩] })
    (fun s => (s.live, s.events)) = some (some .sio, [.cpuReset, .inject 0x4C]) := by decide
theorem test_evtReset : after (exec .evtReset { serialHolding [1, 2] with bsel := 0x05, live := some .sio })
    (fun s => (s.bsel, s.sioA.q, s.sioAsserted, s.live)) = some (0x00, [], false, none) := by decide
theorem test_evtCpuReset : after (exec .evtCpuReset { serialHolding [1] with bsel := 0x05, sniff := .afterEd })
    (fun s => (s.bsel, s.sioA.q, s.sniff)) = some (0x05, [1], .idle) := by decide

/-! The parameters of 00_scope.md R9 that follow others, and the reference schedule (46_events.md R392). -/

theorem test_default_order : ({ uarts := [⟨0xA0, 0xFF⟩, ⟨0xA8, 0xFF⟩] } : Config).arbOrder = [.sio, .uart 0, .uart 1] := by
  decide
theorem test_default_image : ({ flatRomBanks := 2 } : Config).romImageSize = 65536 ∧
    Config.defaultDual.romImageSize = 1048576 := by decide
theorem test_takeCycles : takeCycles 10 [.transaction 4 (.mfetch 0), .transaction 9 (.iord 0x80)] =
    ([.word 0x1000000], [.transaction 3 (.iord 0x80)]) := by decide
theorem test_batchClose : batchClose ⟨10, 1, 2⟩ 4 { reset with changed := true } =
    [.word 0x6000200, .word 0x6000100] ∧ batchClose ⟨10, 1, 2⟩ 3 reset = [] := by decide

/-! A witness for the hypotheses of every statement that has some, clause by clause. -/

theorem witness_LowerWindowShowsTheSelectedBank : reset.cfg.scheme = .flat ∧
    (dualReset.cfg.scheme = .dual ∧ dualReset.cfg.dualMap = .standard ∧ dualReset.cfg.dualIdxBits = 5) ∧
    (narrowReset.cfg.scheme = .dual ∧ narrowReset.cfg.dualMap = .standard ∧ configValid narrowReset.cfg = true) := by decide
theorem witness_PlatformDualMapDependsOnlyOnItsRegisters :
    platformReset.cfg.scheme = .dual ∧ platformReset.cfg.dualMap = .platform ∧
    { platformReset with bsel := 0x01 }.cfg = platformReset.cfg ∧ { platformReset with bsel := 0x01 }.rb = platformReset.rb ∧
    { platformReset with bsel := 0x01 }.win = platformReset.win := by decide
theorem witness_UpperWindowIgnoresBankSelectWrites :
    (∀ i ∈ [Instr.outBsel 0xFF, .outRb 0x00, .outWin 0x01], isBankWrite i = true) ∧ addrUpper 0x8000 = true ∧
    addrUpper 0xFFFF = true ∧ reset.cfg.scheme = .flat ∧ dualReset.cfg.scheme = .dual := by decide
theorem witness_EveryTranslationIsInRange : configValid reset.cfg = true ∧ reset.cfg.scheme = .flat ∧
    configValid dualReset.cfg = true ∧ dualReset.cfg.scheme = .dual ∧ dualReset.cfg.dualIdxBits = 5 := by decide
theorem witness_WindowsAliasExactlyAtTheCommonBank : configValid reset.cfg = true ∧ reset.cfg.dualMap = .standard ∧
    (0x0010#16 : Addr) ≠ 0x8010#16 ∧ addrOffset 0x0010 = addrOffset 0x8010 ∧
    lowerShowsCommon { reset with bsel := 0x0F } = true ∧ lowerShowsCommon reset = false := by decide
theorem witness_ReadsAndFetchesReturnTheTranslatedByte : configValid reset.cfg = true ∧ configValid dualReset.cfg = true := by
  decide
theorem witness_MemoryWriteStoresTheByteOrIsDiscarded : configValid stored.cfg = true ∧
    (storageGood stored (lowerLoc stored 0x7FFF) = true ∧ (lowerLoc stored 0x7FFF).isRom stored.cfg = true) ∧
    (storageGood stored (lowerLoc { stored with bsel := 0x01 } 0x0000) = true ∧
      (lowerLoc { stored with bsel := 0x01 } 0x0000).isRom stored.cfg = false) ∧
    (storageGood stored (upperLoc stored.cfg 0x7FFF) = true ∧ (upperLoc stored.cfg 0x7FFF).isRom stored.cfg = false) ∧
    (configValid { stored.cfg with flatRomBanks := 16 } = true ∧
      (upperLoc { stored.cfg with flatRomBanks := 16 } 0x0000).isRom { stored.cfg with flatRomBanks := 16 } = true) := by
  decide
theorem witness_OnlyMemoryWritesChangeStorage : isMemoryWrite (.mfetchHi 0x0101) = false ∧
    ∃ t, exec (.mfetchHi 0x0101) { stored with sniff := .afterEd } = .next t := ⟨rfl, _, rfl⟩
theorem witness_StoredByteIsSeenByTheNextReadAndFetch : configValid reset.cfg = true ∧
    storageGood { reset with bsel := 0x0F } (translateAddr { reset with bsel := 0x0F } 0x7FFF) = true ∧
    (translateAddr { reset with bsel := 0x0F } 0x7FFF).same (translateAddr { reset with bsel := 0x0F } 0xFFFF) ∧
    (translateAddr { reset with bsel := 0x0F } 0x7FFF).isRom reset.cfg = false ∧
    ∃ t, exec (mwrOf 0x7FFF 0x99) { reset with bsel := 0x0F } = .next t := ⟨by decide, by decide, ⟨rfl, rfl⟩, rfl, _, rfl⟩
theorem witness_BankSelectWriteSetsOnlyItsRegister : reset.cfg.scheme = .flat ∧
    (dualReset.cfg.scheme = .dual ∧ dualReset.cfg.dualMap = .standard ∧ dualReset.cfg.dualIdxBits = 5) := by decide
theorem witness_BankSelectReadBackIsAnyByte :
    (Instr.inBsel = .inBsel ∨ Instr.inBsel = .inRb ∨ Instr.inBsel = .inWin) ∧
    (Instr.inWin = .inBsel ∨ Instr.inWin = .inRb ∨ Instr.inWin = .inWin) := by decide
theorem witness_TraceMaskAndChangedAreReadByNoRule :
    (∃ t, step (reset.withFetchWord 32 0x6000200) = .next t) ∧
    (∃ f, step { reset with lineA := { HostLine.quiet with failed := true }, inbox := [.word 0x6000000] } = .fault f) ∧
    (∃ r, step (reset.withFetchWord 32 0x7000000) = .refused r) := ⟨⟨_, rfl⟩, ⟨_, rfl⟩, ⟨_, rfl⟩⟩
theorem witness_SioDataReadPopsTheOldestByte :
    ((serialHolding [1, 2]).chan .a).q = [1] ++ [2] ∧ (reset.chan .b).q = [] := by decide
theorem witness_TransmitWritesReachTheirHostLine : reset.uarts[0]? = some ⟨uart0, HostLine.quiet⟩ := by decide
theorem witness_SioStatusReadReturnsRegisterZero : (reset.chan .b).ptr = 0#3 ∧ (reset.sioLine .b).broken = false ∧
    (({ reset with lineB := { HostLine.quiet with failed := true } } : State).sioLine .b).broken = true := by decide
theorem witness_SioReadRegistersOneToSeven :
    (({ reset with sioA := { SioChannel.reset with ptr := 1 } } : State).chan .a).ptr = 1#3 ∧
    (({ reset with sioB := { SioChannel.reset with ptr := 2 } } : State).chan .b).ptr = 2#3 ∧
    3 ≤ (({ reset with sioA := { SioChannel.reset with ptr := 3 } } : State).chan .a).ptr.toNat ∧
    3 ≤ (({ reset with sioA := { SioChannel.reset with ptr := 7 } } : State).chan .a).ptr.toNat := by decide
theorem witness_PointedRegisterWriteSetsOnlyThatRegister :
    (({ reset with sioA := { SioChannel.reset with ptr := 1 } } : State).chan .a).ptr ≠ 0#3 ∧
    (({ reset with sioB := { SioChannel.reset with ptr := 7 } } : State).chan .b).ptr ≠ 0#3 := by decide
theorem witness_ReceivedByteIsDroppedQueuedOrReplacesTheNewest :
    (reset.chan .a).wr[3].getLsbD 0 = false ∧
    ((serialHolding [1, 2, 3]).chan .a).wr[3].getLsbD 0 = true ∧ ((serialHolding [1, 2, 3]).chan .a).q.length = 3 ∧
    ((serialHolding [1, 2]).chan .a).wr[3].getLsbD 0 = true ∧ ((serialHolding [1, 2]).chan .a).q.length ≠ 3 ∧
    ((serial.chan .a).wr[3].getLsbD 0 = true ∧ (serial.chan .a).q.length ≠ 3 ∧ 2 ≤ (serial.chan .a).mode.toNat ∧
      serial.sioAsserted = false) ∧ (serialHolding [1]).sioAsserted = true := by decide
theorem witness_RaiseLatchesTheVectorOfTheHighestCondition :
    (serialHolding [1]).sioAsserted = true ∧ serial.sioAsserted = false ∧ reset.sioB.wr[1].getLsbD 2 = false ∧
    serial.sioB.wr[1].getLsbD 2 = true ∧ (serialHolding [1]).sioA.pendRxa = true ∧
    (serial.sioA.setPend .err).pendRxa = false ∧ (serial.sioA.setPend .err).pendErr = true ∧
    serial.sioA.pendRxa = false ∧ serial.sioA.pendErr = false := by decide
theorem witness_OverrunKeepsTheQueueAtItsDepth : (serial.chan .a).wr[3].getLsbD 0 = true ∧ (serial.chan .a).q.length ≤ 3 ∧
    3 < (serial.chan .a).q.length + [1, 2, 3, (4 : Byte)].length ∧ [1, 2, 3, (4 : Byte)] ≠ [] ∧
    (3 < ((serialHolding [1, 2, 3]).chan .a).q.length + [(4 : Byte)].length) := by decide
theorem witness_ChannelBNeverAsserts : (∀ i ∈ [Instr.outSioCmd7 .b 0 0, .inSioData .b], onChannelB i = true) ∧
    (∃ t, execAll [Instr.outSioCmd7 .b 0 0, .inSioCtrl .b] serial = some t) ∧ serial.sioAsserted = false :=
  ⟨by decide, ⟨_, rfl⟩, rfl⟩
theorem witness_uart_statements : reset.uarts[0]? = some ⟨uart0, HostLine.quiet⟩ ∧
    ({ uart0 with pendRx := true } : Uart).pendRx = true ∧
    (({ uart0 with pendThre := true } : Uart).pendRx = false ∧ ({ uart0 with pendThre := true } : Uart).pendThre = true) ∧
    (({ uart0 with pendMs := true } : Uart).pendRx = false ∧ ({ uart0 with pendMs := true } : Uart).pendThre = false ∧
      ({ uart0 with pendMs := true } : Uart).pendMs = true) ∧
    (uart0.pendRx = false ∧ uart0.pendThre = false ∧ uart0.pendMs = false) := by decide
/-- `withUart` with the latch bit set and one word pending. -/
def latched (t : TWord) : State := { withUart { uart0 with lcr := 0x80 } with inbox := [.word t] }
theorem witness_DivisorLatchHidesTheReceiverAndEnables :
    configValid (latched 0).cfg = true ∧ 0 < (latched 0).cfg.uarts.length ∧
    (latched 0).uarts[0]? = some ⟨{ uart0 with lcr := 0x80 }, HostLine.quiet⟩ ∧
    ({ uart0 with lcr := 0x80 } : Uart).lcr.getLsbD 7 = true ∧
    (latched 0x400A000).inbox = .word (inWord (uartPort (latched 0).cfg 0 0)) :: [] ∧
    (latched 0x400A100).inbox = .word (inWord (uartPort (latched 0).cfg 0 1)) :: [] ∧
    (latched 0x500A00C).inbox = .word (outWord (uartPort (latched 0).cfg 0 0) 0x0C) :: [] ∧
    (latched 0x500A10C).inbox = .word (outWord (uartPort (latched 0).cfg 0 1) 0x0C) :: [] := by decide
theorem witness_UartTickSamplesItsHostLine :
    (uart0.lsr.getLsbD 0 = false ∧ (offering [0x61]).bound = true ∧ (offering [0x61]).rx = 0x61 :: []) ∧
    ({ uart0 with lsr := 0x61 } : Uart).lsr.getLsbD 0 = true ∧ HostLine.unbound.bound = false ∧ HostLine.quiet.rx = [] := by
  decide
theorem witness_PulseTogglesCarrierDetectWhenEnabled : reset.cfg.pulseEnabled = false ∧
    ({ pulseEnabled := true } : Config).pulseEnabled = true := by decide
theorem witness_TickSamplesEveryLineInOrder : hostHealthy reset = true ∧
    hostHealthy { reset with lineB := { HostLine.quiet with failed := true } } = false ∧ HostLine.unbound.bound = false ∧
    (reset.sioLine .a).rx = [] ∧ (({ reset with lineA := offering [1] } : State).sioLine .a).bound = true ∧
    (({ reset with lineA := offering [1] } : State).sioLine .a).rx = 1 :: [] := by decide
theorem witness_ResetStrobeSuppressesTransfers : (0x80 : Byte).getLsbD reset.cfg.dbRstBit.val = true ∧
    (0xFF : Byte).getLsbD reset.cfg.dbRstBit.val = true := by decide
theorem witness_RisingWriteStrobeWritesTheDevice : (0x21 : Byte).getLsbD reset.cfg.dbRstBit.val = false ∧
    (0x21 : Byte).getLsbD reset.cfg.dbRdBit.val = false ∧
    (withBridge ⟨0, 0, 0x40, 0, 0x40⟩ []).db.prev.getLsbD reset.cfg.dbRdBit.val = true ∧
    (0x60 : Byte).getLsbD reset.cfg.dbRstBit.val = false := by decide
theorem witness_RisingReadStrobeLatchesTheDevice : (0x40 : Byte).getLsbD reset.cfg.dbRstBit.val = false ∧
    (0x40 : Byte).getLsbD reset.cfg.dbRdBit.val = true ∧ reset.db.prev.getLsbD reset.cfg.dbRdBit.val = false ∧
    (withBridge DiskBridge.reset [0xBEEF]).dev.attached = true ∧
    (withBridge DiskBridge.reset [0xBEEF]).dev.answers = 0xBEEF :: [] ∧
    (withBridge DiskBridge.reset []).dev.answers = [] ∧ reset.dev.attached = false := by decide
theorem witness_RepeatedControlWritesTransferOnce : (0x60 : Byte).getLsbD reset.cfg.dbRstBit.val = false ∧
    (0x60 : Byte).getLsbD reset.cfg.dbWrBit.val = true ∧ reset.db.prev.getLsbD reset.cfg.dbWrBit.val = false ∧
    (0x60 : Byte).getLsbD reset.cfg.dbRdBit.val = true ∧ reset.db.prev.getLsbD reset.cfg.dbRdBit.val = false := by decide
theorem witness_PollInjectsTheFirstPendingSource :
    { serialHolding [1] with live := some .sio }.live ≠ none ∧
    (reset.live = none ∧ ∀ src ∈ reset.cfg.arbOrder, offer reset src = none) ∧
    (reset.cfg.arbOrder = [] ++ .sio :: [.uart 0] ∧ offer (serialHolding [1]) .sio = some 0x4C) ∧
    (reset.cfg.arbOrder = [.sio] ++ .uart 0 :: [] ∧
      (∀ x ∈ [Source.sio], offer (withUart { uart0 with pendThre := true }) x = none) ∧
      offer (withUart { uart0 with pendThre := true }) (.uart 0) = some 0xFF) ∧
    reset.uarts[0]? = some ⟨uart0, HostLine.quiet⟩ ∧ reset.cfg.uarts[0]? = some ⟨0xA0, 0xFF⟩ := by decide
theorem witness_ReturnSequenceReleasesTheLineAndRepolls : configValid stored.cfg = true ∧
    { stored with sniff := .afterEd }.sniff = .afterEd ∧ stored.readLoc (translateAddr stored 0x8101) = 0x4D ∧
    stored.live ≠ some .sio ∧ { stored with live := some .sio }.live = some .sio := by decide
theorem witness_DetectorFollowsItsTable : reset.sniff = .idle ∧ (0x00 : Byte) ≠ 0x4D ∧ (0x00 : Byte) ≠ 0xED ∧
    (0x00 : Byte) ≠ 0xDD ∧ (0x00 : Byte) ≠ 0xFD ∧ (0x00 : Byte) ≠ 0xCB ∧
    { reset with sniff := .afterCb }.sniff = .afterCb ∧ { reset with sniff := .afterEd }.sniff = .afterEd ∧
    { reset with sniff := .afterIxiy }.sniff = .afterIxiy := by decide
/-- From a state: fetch 0x8100 gives `ED`, a data read of 0x8101 completes, fetch 0x8101 gives `4D`. -/
def pairFetched (s : State) : Bool :=
  match exec (mfetchOf 0x8100) s with
  | .next t =>
    match execAll ([0x8101].map mrdOf) t with
    | some u =>
      match exec (mfetchOf 0x8101) u with
      | .next v => decide (t.result = some 0xED ∧ v.result = some 0x4D)
      | _ => false
    | none => false
  | _ => false
theorem witness_FetchedPairEmitsOneReturnEvent : stored.sniff = .idle ∧ pairFetched stored = true ∧
    pairFetched { stored with sniff := .afterIxiy } = true := by decide
theorem witness_PrefixesNeitherHideNorFakeAReturn : reset.sniff = .idle ∧ (0xFF : Byte) ≠ 0x4D ∧
    0 < [(0xDD : Byte), 0xED, 0x4D].length := by decide
theorem witness_OnlyFetchesAndResetsMoveTheDetector : isFetch .evtCpuReset = false ∧ isFetch (.mrdHi 0x0101) = false ∧
    (∃ t, exec .evtCpuReset { stored with sniff := .afterEd } = .next t) ∧
    (∃ t, exec (.mrdHi 0x0101) { stored with sniff := .afterEd } = .next t) := ⟨rfl, rfl, ⟨_, rfl⟩, ⟨_, rfl⟩⟩
theorem witness_LiveSourceStaysUntilReturnOrReset :
    ∃ t, exec .evtPoll { serialHolding [1] with live := some (.uart 0) } = .next t ∧
      { serialHolding [1] with live := some (.uart 0) }.live = some (.uart 0) ∧ Instr.evtPoll ≠ .evtReset ∧
      retiCount t = retiCount { serialHolding [1] with live := some (.uart 0) } :=
  ⟨_, rfl, rfl, by decide, rfl⟩
theorem witness_AtMostOneInjectionBetweenReturns :
    ∃ t, step { serialHolding [1] with inbox := [.word 0x6000200] } = .next t ∧
      ({ serialHolding [1] with inbox := [.word 0x6000200] } : State).nextWord ≠ some (encode Config.default .evtReset) ∧
      injectsSinceReti (serialHolding [1]).events ≤ 1 ∧ injectsSinceReti (serialHolding [1]).events = 0 ∧
      injectsSinceReti t.events = 1 := ⟨_, rfl, by decide, by decide, by decide, by decide⟩
theorem witness_ButtonResetKeepsDeviceState : reset.cfg.buttonResetsBank = false ∧
    ({ buttonResetsBank := true } : Config).buttonResetsBank = true := by decide
theorem witness_NoInterruptBeforeFirmwareEnablesOne : (∃ t, exec .evtReset (serialHolding [1]) = .next t) ∧
    interruptsOff { reset with lineA := offering [1] } = true ∧
    (∃ t, exec .evtTick { reset with lineA := offering [1] } = .next t) ∧ (∃ t, exec .evtPulse reset = .next t) ∧
    (∃ t, exec .evtPoll reset = .next t) ∧
    (∃ t, exec (.mfetchHi 0x0101) { stored with sniff := .afterEd } = .next t ∧
      interruptsOff { stored with sniff := .afterEd } = true ∧ enablesInterrupts (.mfetchHi 0x0101) = false) :=
  ⟨⟨_, rfl⟩, by decide, ⟨_, rfl⟩, ⟨_, rfl⟩, ⟨_, rfl⟩, ⟨_, rfl, by decide, by decide⟩⟩
/-- A launch with an empty ROM image. -/
def bare (c : Config) (image : List Byte) : Launch :=
  { cfg := c, image := image, flat := [], rom := [], ram := [], lineA := HostLine.unbound, lineB := HostLine.unbound
    uartLines := [], dev := BlockDevice.none }
theorem witness_LaunchLoadsTheImageOrBeginsNoRun :
    configValid (bare { flatCommon := 16 } []).cfg = false ∧
    (configValid (bare Config.default []).cfg = true ∧ (bare Config.default []).image.length ≠ Config.default.romImageSize) ∧
    (configValid (bare Config.default (List.replicate 32768 0x5A)).cfg = true ∧
      (bare Config.default (List.replicate 32768 0x5A)).image.length = Config.default.romImageSize) :=
  ⟨by decide, ⟨by decide, by decide⟩, by decide, List.length_replicate⟩
theorem witness_DecodeOfEncodeIsTheOperation : configValid resetView.cfg = true ∧
    Instr.wellFormed resetView (.outUartThr 0 0xFF) = true ∧ configValid dualView.cfg = true ∧
    Instr.wellFormed dualView .inWin = true ∧ Instr.wellFormed pointedView (.outSioWrn .b 0xFF) = true ∧
    Instr.wellFormed latchView (.inUartDlm 0) = true := by decide
theorem witness_DecodedOperationEncodesTheSameFields : configValid resetView.cfg = true ∧
    decode resetView 0x28000AA#27 = .ok (.mwrHi 0x0000 0xAA) ∧ wordKind 0x28000AA#27 ≠ 4#3 ∧ wordKind 0x28000AA#27 ≠ 5#3 ∧
    decode resetView 0x4128000#27 = .ok (.inSioCtrl .a) ∧ wordKind 0x4128000#27 = 4#3 ∧
    lookupPort Config.default (addrPort (wordAddr 0x4128000#27)) = some (.sio, 0) := ⟨by decide, rfl, by decide, by decide, rfl, by decide, by decide⟩
theorem witness_StepRunsTheDecodedOperation : configValid reset.cfg = true ∧
    (reset.withFetchWord 32 0x6000200).inbox = .word 0x6000200 :: [] ∧
    decode (reset.withFetchWord 32 0x6000200).view 0x6000200 = .ok .evtPoll ∧
    (reset.withFetchWord 32 0x7000000).inbox = .word 0x7000000 :: [] ∧
    decode (reset.withFetchWord 32 0x7000000).view 0x7000000 = .error .kind7 := ⟨by decide, rfl, rfl, rfl, rfl⟩
theorem witness_OnlyAgentsMoveTheMachine : configValid reset.cfg = true ∧ reset.inbox = [] ∧
    { reset with inbox := [.host (.offer (.uart 0) 0x61)] }.inbox = .host (.offer (.uart 0) 0x61) :: [] := by decide
/-- The DUAL machine at reset meets the invariant and steps. -/
theorem witness_EveryStepKeepsTheInvariant : Inv dualReset ∧ ∃ t, step (dualReset.withFetchWord 32 0x6000200) = .next t :=
  ⟨by constructor <;> decide, _, rfl⟩
theorem witness_NoOperationHasAnErrorOutcome : Inv dualReset ∧ hostHealthy dualReset = true ∧
    Instr.wellFormed dualReset.view (.inSioCtrl .a) = true ∧ Instr.wellFormed dualReset.view (.outUartThr 0 0x00) = true :=
  ⟨by constructor <;> decide, by decide, by decide, by decide⟩

end Sys2Proof.Tests
end

section
/-! Storage is written by memory writes alone (10_state.md R34). Each operation of the model that is no memory write is
shown once to leave the storage arrays as they were; O8 is then one case per form an operation takes. -/

namespace Sys2Proof.Machine

/-! The storage arrays after each operation on the state. -/

section
variable (s : State)

@[simp] theorem State.mem_ret (b : Byte) : (s.ret b).mem = s.mem := rfl
@[simp] theorem State.mem_emit (e : Event) : (s.emit e).mem = s.mem := rfl
@[simp] theorem State.mem_retDraw : s.retDraw.mem = s.mem := rfl
@[simp] theorem State.mem_markChanged (c : Bool) : (s.markChanged c).mem = s.mem := rfl
@[simp] theorem State.mem_setUart (i : Nat) (n : UartUnit) : (s.setUart i n).mem = s.mem := rfl
@[simp] theorem mem_forUarts (f : UartUnit → UartUnit × Bool) : (forUarts f s).mem = s.mem := rfl
@[simp] theorem mem_resetRegisters : (resetRegisters s).mem = s.mem := rfl
@[simp] theorem mem_resetBanks : (resetBanks s).mem = s.mem := rfl

@[simp] theorem State.mem_setChan (c : Channel) (ch : SioChannel) : (s.setChan c ch).mem = s.mem := by
  cases c <;> rfl

@[simp] theorem State.mem_setSioLine (c : Channel) (l : HostLine) : (s.setSioLine c l).mem = s.mem := by
  cases c <;> rfl

@[simp] theorem mem_sioReti : (sioReti s).mem = s.mem := by
  rw [sioReti_frame]
  rfl

@[simp] theorem mem_sioReturn (c : Channel) : (sioReturn c s).mem = s.mem := by
  cases c with
  | a => exact mem_sioReti s
  | b => rfl

@[simp] theorem mem_sioPop (c : Channel) : (sioPop c s).mem = s.mem := by
  rcases sioPop_cases c s with ⟨-, h⟩ | ⟨b, r, -, h⟩ <;> simp [h]

@[simp] theorem mem_sioTickChan (c : Channel) : (sioTickChan c s).mem = s.mem := by
  rw [sioTickChan_frame]
  cases c <;> rfl

@[simp] theorem mem_controlWrite (d : Byte) : (controlWrite d s).mem = s.mem := by
  rw [controlWrite_frame]
  rfl

@[simp] theorem mem_poll : (poll s).mem = s.mem := by
  rw [poll_frame]
  rfl

@[simp] theorem mem_sniffStep (b : Byte) : (sniffStep b s).mem = s.mem := by
  rw [sniffStep_frame]
  rfl

end

/-- Equal storage arrays read equal at every location. -/
theorem State.readLoc_congr {s t : State} (h : t.mem = s.mem) (l : Loc) : t.readLoc l = s.readLoc l := by
  simp only [State.readLoc, h]

/-! The outcomes that keep storage. -/

/-- Where the outcome is a next state, its storage arrays are those of `s`. -/
def KeepsStorage (s : State) (o : Host.Outcome State Fault Refusal) : Prop := ∀ t, o = .next t → t.mem = s.mem

section
variable {s : State}

theorem KeepsStorage.next {t : State} (h : t.mem = s.mem) : KeepsStorage s (.next t) := by
  rintro _ ⟨⟩
  exact h

theorem KeepsStorage.fault (f : Fault) : KeepsStorage s (.fault f) := by
  rintro _ ⟨⟩

theorem KeepsStorage.refused (r : Refusal) : KeepsStorage s (.refused r) := by
  rintro _ ⟨⟩

theorem readAt_keepsStorage (l : Loc) : KeepsStorage s (readAt l s) := by
  intro t h
  obtain ⟨-, rfl⟩ := readAt_inv h
  rfl

theorem fetchAt_keepsStorage (l : Loc) : KeepsStorage s (fetchAt l s) := by
  intro t h
  obtain ⟨-, rfl⟩ := fetchAt_inv h
  simp

theorem wr0Write_keepsStorage (c : Channel) (crc : BitVec 2) (cmd ptr : BitVec 3) {act : State → State}
    (hact : ∀ u, (act u).mem = u.mem) : KeepsStorage s (wr0Write c crc cmd ptr act s) :=
  .next (by simp [setPtr, storeWr0, hact])

theorem execInSioCtrl_keepsStorage (c : Channel) : KeepsStorage s (execInSioCtrl c s) := by
  unfold execInSioCtrl
  split
  · split
    · exact .fault _
    · exact .next (by simp [setPtr])
  all_goals exact .next (by simp [setPtr])

theorem uartIn_keepsStorage (i : Nat) (value : Uart → Byte) (after : Uart → Uart) (touch : Uart → Bool) :
    KeepsStorage s (uartIn i s value after touch) := by
  intro t h
  obtain ⟨n, -, rfl⟩ := uartIn_inv h
  rfl

theorem uartOut_keepsStorage (i : Nat) (after : Uart → Uart) (touch : Bool) :
    KeepsStorage s (uartOut i s after touch) := by
  intro t h
  obtain ⟨n, -, rfl⟩ := uartOut_inv h
  rfl

theorem execOutUartThr_keepsStorage (i : Nat) (d : Byte) : KeepsStorage s (execOutUartThr i d s) := by
  unfold execOutUartThr
  split
  · exact .refused _
  · exact .next rfl

theorem execEvtTick_keepsStorage : KeepsStorage s (execEvtTick s) := by
  unfold execEvtTick
  split
  · exact .fault _
  · exact .next (by simp [sioTick])

theorem execEvtPulse_keepsStorage : KeepsStorage s (execEvtPulse s) :=
  .next (by split <;> rfl)

theorem execEvtCpuReset_keepsStorage : KeepsStorage s (execEvtCpuReset s) :=
  .next (by split <;> rfl)

end

/-- Only a memory write changes a storage array (10_state.md R34). -/
theorem exec_keepsStorage (i : Instr) (s : State) (h : isMemoryWrite i = false) : KeepsStorage s (exec i s) := by
  cases i with
  | mwrLo | mwrHi => cases h
  | mrdLo | mrdHi => exact readAt_keepsStorage _
  | mfetchLo | mfetchHi => exact fetchAt_keepsStorage _
  | outBsel | outRb | outWin => exact .next rfl
  | inBsel | inRb | inWin | outTrace | inTrace | inUnmapped | outUnmapped => exact .next rfl
  | inSioData c => exact .next (mem_sioPop s c)
  | outSioData c d => exact .next (by simp)
  | inSioCtrl => exact execInSioCtrl_keepsStorage _
  | outSioCmd0 | outSioCmd1 | outSioCmd2 | outSioCmd5 => exact wr0Write_keepsStorage _ _ _ _ fun _ => rfl
  | outSioCmd3 | outSioCmd4 | outSioCmd6 => exact wr0Write_keepsStorage _ _ _ _ fun u => u.mem_setChan _ _
  | outSioCmd7 c => exact wr0Write_keepsStorage _ _ _ _ fun u => mem_sioReturn u c
  | outSioWrn => exact .next (s.mem_setChan _ _)
  | inUartRbr | inUartDll | inUartIer | inUartDlm | inUartIir | inUartLcr | inUartMcr | inUartLsr | inUartMsr
  | inUartScr =>
    unfold exec
    exact uartIn_keepsStorage _ _ _ _
  | outUartThr => exact execOutUartThr_keepsStorage _ _
  | outUartDll | outUartIer | outUartDlm | outUartFcr | outUartLcr | outUartMcr | outUartScr | outUartLsrMsr =>
    unfold exec
    exact uartOut_keepsStorage _ _ _
  | inDbDlo | inDbDhi | inDbCtl | inDbDir | outDbDlo | outDbDhi | outDbDir => exact .next rfl
  | outDbCtl d => exact .next (mem_controlWrite s d)
  | evtTick => exact execEvtTick_keepsStorage
  | evtPulse => exact execEvtPulse_keepsStorage
  | evtPoll => exact .next (mem_poll s)
  | evtReset => exact .next rfl
  | evtCpuReset => exact execEvtCpuReset_keepsStorage

/-- Settles O8: an operation that is no memory write keeps every storage array, so every byte reads as before. -/
theorem onlyMemoryWritesChangeStorage : Obligations.OnlyMemoryWritesChangeStorage := by
  intro i s t hexec hwrite
  exact State.readLoc_congr (exec_keepsStorage i s hwrite t hexec)

end Sys2Proof.Machine
end

section
/-! Which words are refused (30_encoding.md R105). The two parts of the decoder that can refuse a word are each described
once, the decoder is then described for each group of kinds, and O54 is one case per kind. -/

namespace Sys2Proof

/-! The parts of the decoder that can refuse. -/

/-- A word that must carry no data is refused exactly when it carries some. -/
theorem readWord_refused_iff (d : Byte) (i : Instr) : (∃ r, readWord d i = .error r) ↔ d ≠ 0#8 := by
  unfold readWord
  split <;> simp_all

/-- The event codes in use, 0 to 4 (30_encoding.md R102), leave no gap below 4. -/
theorem eventCode_above_of_unused {a : Addr} (h0 : a ≠ 0#16) (h1 : a ≠ 1#16) (h2 : a ≠ 2#16) (h3 : a ≠ 3#16)
    (h4 : a ≠ 4#16) : 4 < a.toNat := by
  bv_omega

/-- An event word is refused exactly for a code that is not in use or for carrying data. -/
theorem decodeEvent_refused_iff (a : Addr) (d : Byte) :
    (∃ r, decodeEvent a d = .error r) ↔ 4 < a.toNat ∨ d ≠ 0#8 := by
  unfold decodeEvent
  split
  next hd => simp [hd]
  next hd =>
    split
    case h_6 h0 h1 h2 h3 h4 =>
      simp [eventCode_above_of_unused h0 h1 h2 h3 h4]
    all_goals simpa using hd

/-! The decoder, by kind. -/

section
variable (v : DecodeView) {t : TWord}

/-- Kinds 3 and 7 stand for nothing. -/
theorem decode_refuses_of_unassigned (h : wordKind t = 3#3 ∨ wordKind t = 7#3) : ∃ r, decode v t = .error r := by
  rcases h with h | h <;> simp [decode, h]

/-- Memory reads, fetches and port reads carry no data. -/
theorem decode_refused_iff_of_read (h : wordKind t = 0#3 ∨ wordKind t = 1#3 ∨ wordKind t = 4#3) :
    (∃ r, decode v t = .error r) ↔ wordData t ≠ 0#8 := by
  rcases h with h | h | h <;> simp only [decode, h, readWord_refused_iff]

/-- Memory writes and port writes are never refused: every data byte has a meaning. -/
theorem decode_not_refused_of_write (h : wordKind t = 2#3 ∨ wordKind t = 5#3) : ¬ ∃ r, decode v t = .error r := by
  rcases h with h | h <;> simp [decode, h]

theorem decode_refused_iff_of_event (h : wordKind t = 6#3) :
    (∃ r, decode v t = .error r) ↔ 4 < (wordAddr t).toNat ∨ wordData t ≠ 0#8 := by
  simp only [decode, h, decodeEvent_refused_iff]

end

/-- Every kind is unassigned, a read, a write or an event (30_encoding.md R100). -/
theorem kind_cases (k : BitVec 3) :
    (k = 3#3 ∨ k = 7#3) ∨ (k = 0#3 ∨ k = 1#3 ∨ k = 4#3) ∨ (k = 2#3 ∨ k = 5#3) ∨ k = 6#3 := by
  revert k
  decide

/-- Settles O54, kind by kind. -/
theorem exactlyTheReservedWordsAreRejected : Obligations.ExactlyTheReservedWordsAreRejected := by
  intro v t
  rcases kind_cases (wordKind t) with h | h | h | h
  · exact iff_of_true (decode_refuses_of_unassigned v h) (by tauto)
  · rw [decode_refused_iff_of_read v h]
    rcases h with h | h | h <;> simp [h]
  · have hnot := decode_not_refused_of_write v h
    rcases h with h | h <;> simp [h, hnot]
  · rw [decode_refused_iff_of_event v h]
    simp [h]

end Sys2Proof
end

section
/-! The bank translator (40_bank_translator.md R133 to R139). The lower window's translation is said once per scheme,
and what a write at a location does once for both windows; the statements about the memory and bank-select operations
are uses of these. -/

namespace Sys2Proof.Machine

/-! Where the lower window lands, in numbers. -/

theorem flatBank_eq_mod (bsel : Byte) : flatBank bsel = bsel.toNat % 16 := by
  simp [flatBank]

/-- The mode bit `WIN[0]` is the parity of `WIN`. -/
theorem getLsbD_zero_iff_odd (win : Byte) : win.getLsbD 0 = true ↔ win.toNat % 2 = 1 := by
  simp [BitVec.getLsbD]

/-- Under FLAT the lower window shows the bank of the low nibble of `BSEL`. -/
theorem lowerLoc_of_flat {s : State} (hs : s.cfg.scheme = .flat) (o : Offset) :
    lowerLoc s o = ⟨.flat, s.bsel.toNat % 16, o⟩ := by
  simp only [lowerLoc, hs, flatBank_eq_mod]

/-- Under DUAL with R133's map, `RB` selects the bank and `WIN[0]` the array. -/
theorem lowerLoc_of_standardDual {s : State} (hs : s.cfg.scheme = .dual) (hm : s.cfg.dualMap = .standard) (o : Offset) :
    lowerLoc s o = ⟨if s.win.toNat % 2 = 1 then .ram else .rom, s.rb.toNat % 2 ^ s.cfg.dualIdxBits, o⟩ := by
  simp only [lowerLoc, hs, resolveDual, hm, dualBank, Config.dualBanks, getLsbD_zero_iff_odd]

/-! A write at a location (40_bank_translator.md R136). -/

/-- In canonical storage, `writeLoc` stores its byte at its location and touches nothing else. -/
theorem State.storedAt_writeLoc {s : State} {l : Loc} (d : Byte) (hgood : storageGood s l = true) :
    StoredAt l d s (s.writeLoc l d) :=
  ⟨s.readLoc_writeLoc_same l d _ hgood, fun k hk => s.readLoc_writeLoc_other l k d hk, s.writeLoc_frame l d⟩

/-- A write to ROM is discarded; any other in-range write stores its byte. -/
theorem writeAt_stores_or_discards {s : State} {l : Loc} (d : Byte) (hl : l.inRange s.cfg = true)
    (hgood : storageGood s l = true) :
    if l.isRom s.cfg = true then writeAt l d s = .next s
    else ∃ t, writeAt l d s = .next t ∧ StoredAt l d s t := by
  rw [writeAt_next d hl]
  split
  · rfl
  · exact ⟨_, rfl, State.storedAt_writeLoc d hgood⟩

/-! The memory operations are the accesses at the location their window translates to. -/

section
variable (o : Offset) (d : Byte) (s : State)

theorem exec_mrdLo : exec (.mrdLo o) s = readAt (lowerLoc s o) s := rfl
theorem exec_mrdHi : exec (.mrdHi o) s = readAt (upperLoc s.cfg o) s := rfl
theorem exec_mfetchLo : exec (.mfetchLo o) s = fetchAt (lowerLoc s o) s := rfl
theorem exec_mfetchHi : exec (.mfetchHi o) s = fetchAt (upperLoc s.cfg o) s := rfl
theorem exec_mwrLo : exec (.mwrLo o d) s = writeAt (lowerLoc s o) d s := rfl
theorem exec_mwrHi : exec (.mwrHi o d) s = writeAt (upperLoc s.cfg o) d s := rfl

end

/-! The obligations. -/

/-- Settles O7: both windows translate in range, so each write is the access that stores its byte or is discarded. -/
theorem memoryWriteStoresTheByteOrIsDiscarded : Obligations.MemoryWriteStoresTheByteOrIsDiscarded := by
  refine ⟨fun s o d _ hgood => ?lower, fun s o d hcfg hgood => ?upper, fun c b o => ⟨rfl, rfl, rfl⟩⟩
  case lower =>
    rw [exec_mwrLo]
    exact writeAt_stores_or_discards d (lowerLoc_inRange s o) hgood
  case upper =>
    rw [exec_mwrHi]
    exact writeAt_stores_or_discards d (upperLoc_inRange hcfg o) hgood

/-- Settles O1, scheme by scheme; 5 index bits are the case `2 ^ 5 = 32`. -/
theorem lowerWindowShowsTheSelectedBank : Obligations.LowerWindowShowsTheSelectedBank := by
  intro s o
  refine ⟨fun hs => lowerLoc_of_flat hs o, fun hs hm => ?_⟩
  have hdual := lowerLoc_of_standardDual hs hm o
  refine ⟨hdual, fun hbits => ?_⟩
  rwa [hbits] at hdual

/-- Settles O6: both windows translate in range, so each read and each fetch answers the byte there. -/
theorem readsAndFetchesReturnTheTranslatedByte : Obligations.ReadsAndFetchesReturnTheTranslatedByte := by
  intro s o hcfg
  have hlower := lowerLoc_inRange s o
  have hupper := upperLoc_inRange hcfg o
  rw [exec_mrdLo, exec_mrdHi, exec_mfetchLo, exec_mfetchHi]
  exact ⟨readAt_next hlower, readAt_next hupper, fetchAt_next hlower, fetchAt_next hupper⟩

/-- Settles O10: the new state is the old one with its register set, and the lower window's translation, taken in the
old and in the new state, differs in that register's part only. -/
theorem bankSelectWriteSetsOnlyItsRegister : Obligations.BankSelectWriteSetsOnlyItsRegister := by
  intro s d
  refine ⟨rfl, rfl, rfl, fun hs => lowerLoc_of_flat (s := { s with bsel := d }) hs, fun hs hm o => ?_⟩
  have hrb := lowerLoc_of_standardDual (s := { s with rb := d }) hs hm o
  have hwin := lowerLoc_of_standardDual (s := { s with win := d }) hs hm o
  rw [lowerLoc_of_standardDual hs hm o]
  refine ⟨hrb, fun hbits => ?_, hwin⟩
  rw [hrb]
  simp only [hbits, Nat.reducePow]

end Sys2Proof.Machine
end

section
/-! The port multiplexer's unmapped ports and trace port (41_port_dispatch.md R173, R174, R176, R177): one equation per
operation. Both reads answer `State.ret 0xFF`, whose frame is the `State.ret_` lemmas. -/

namespace Sys2Proof.Machine

variable (p d : Byte) (s : State)

theorem exec_inUnmapped : exec (.inUnmapped p) s = .next (s.ret 0xFF) := rfl
theorem exec_outUnmapped : exec (.outUnmapped p d) s = .next s := rfl
theorem exec_outTrace : exec (.outTrace d) s = .next { s with traceMask := d } := rfl
theorem exec_inTrace : exec .inTrace s = .next (s.ret 0xFF) := rfl

/-- Settles O12, from the equation of each of the four operations. -/
theorem unmappedAndTracePortsReadAllOnes : Obligations.UnmappedAndTracePortsReadAllOnes := by
  intro s p d
  exact ⟨exec_inUnmapped p s, exec_outUnmapped p d s, exec_outTrace d s, exec_inTrace s⟩

end Sys2Proof.Machine
end

section
/-! The serial controller's WR0 commands, register writes and transmit writes (42_serial_fifo.md R197, R203, R208 to
R217), with the UART's transmit write (43_uart.md R271). A WR0 write is described once for every command that changes
its own channel only; the command that re-evaluates the line is described by the state it leaves. -/

namespace Sys2Proof.Machine

/-! Transmit writes. -/

/-- A sent byte goes to the end of a bound line's output and is discarded by an unbound one (10_state.md R53). -/
theorem HostLine.send_eq (l : HostLine) (b : Byte) :
    l.send b = { l with tx := if l.bound then l.tx ++ [b] else l.tx } := by
  unfold HostLine.send
  split <;> rfl

theorem exec_outSioData (c : Channel) (d : Byte) (s : State) :
    exec (.outSioData c d) s = .next ((s.setSioLine c ((s.sioLine c).send d)).emit (.txByte (.sio c) d)) := rfl

theorem exec_outUartThr {i : Nat} {s : State} {n : UartUnit} (hn : s.uarts[i]? = some n) (d : Byte) :
    exec (.outUartThr i d) s = .next
      (((s.setUart i { uart := { n.uart with pendThre := false }, line := n.line.send d }).markChanged true).emit
        (.txByte (.uart i) d)) := by
  change execOutUartThr i d s = _
  simp only [execOutUartThr, hn]

/-- Settles O15, from the equation of each write and what a line does with the byte. -/
theorem transmitWritesReachTheirHostLine : Obligations.TransmitWritesReachTheirHostLine := by
  refine ⟨fun s c d => ?serial, fun s i n d hn => ?uart⟩
  case serial =>
    rw [exec_outSioData, HostLine.send_eq]
    cases c <;> rfl
  case uart =>
    rw [exec_outUartThr hn, HostLine.send_eq]
    simp only [State.setUart, State.markChanged, State.emit, Bool.or_true]

/-! WR0 commands. -/

section
variable (c : Channel) (crc : BitVec 2) (cmd ptr : BitVec 3) (s : State)

/-- A WR0 write whose command changes its own channel only, by `f`: the byte is stored before, the pointer loaded after
(42_serial_fifo.md R208). -/
theorem wr0Write_of_setChan {act : State → State} {f : SioChannel → SioChannel}
    (hact : ∀ u, act u = u.setChan c (f (u.chan c))) :
    wr0Write c crc cmd ptr act s =
      .next (s.setChan c { f ((s.chan c).setWr 0#3 (wr0Byte crc cmd ptr)) with ptr := ptr }) := by
  simp only [wr0Write, setPtr, storeWr0, hact, State.chan_setChan_same, State.setChan_setChan]

/-- A WR0 write whose command does nothing. -/
theorem wr0Write_null :
    wr0Write c crc cmd ptr (fun u => u) s =
      .next (s.setChan c { (s.chan c).setWr 0#3 (wr0Byte crc cmd ptr) with ptr := ptr }) :=
  wr0Write_of_setChan c crc cmd ptr s (f := fun ch => ch) fun u => (u.setChan_chan c).symm

end

/-- Settles O18: the four commands are WR0 writes that do nothing of their own. -/
theorem nullCommandsOnlyStoreWr0AndPointer : Obligations.NullCommandsOnlyStoreWr0AndPointer := by
  intro s c crc ptr
  exact ⟨wr0Write_null c crc 0#3 ptr s, wr0Write_null c crc 1#3 ptr s, wr0Write_null c crc 2#3 ptr s,
    wr0Write_null c crc 5#3 ptr s⟩

/-- Settles O19: each of the three commands changes its own channel only. -/
theorem channelResetRearmAndErrorReset : Obligations.ChannelResetRearmAndErrorReset := by
  intro s c crc ptr
  exact ⟨wr0Write_of_setChan c crc 3#3 ptr s (f := fun _ => SioChannel.reset) fun _ => rfl,
    wr0Write_of_setChan c crc 4#3 ptr s (f := fun ch => { ch with arm := true }) fun _ => rfl,
    wr0Write_of_setChan c crc 6#3 ptr s (f := fun ch => { ch with ovr := false, pendErr := false }) fun _ => rfl⟩

/-! The return command. -/

/-- The vector after a re-evaluation: computed anew when a condition is pending, else kept. -/
theorem sioReti_vec (s : State) :
    (sioReti s).sioVec = if s.sioA.pendAny then computeVector s.sioA s.sioB else s.sioVec := by
  unfold sioReti
  cases s.sioA.pendAny <;> rfl

/-- The whole state after a re-evaluation (42_serial_fifo.md R194). -/
theorem sioReti_eq (s : State) :
    sioReti s =
      { s with
        sioAsserted := s.sioA.pendAny
        sioVec := if s.sioA.pendAny then computeVector s.sioA s.sioB else s.sioVec
        changed := true } := by
  rw [sioReti_frame, sioReti_asserted, sioReti_vec]

/-- Settles O20: channel A's command is a re-evaluation between the store and the pointer load; channel B's does
nothing. -/
theorem returnCommandReevaluatesChannelA : Obligations.ReturnCommandReevaluatesChannelA := by
  refine ⟨fun s crc ptr => ?channelA, fun s crc ptr => wr0Write_null .b crc 7#3 ptr s⟩
  case channelA =>
    change Host.Outcome.next (setPtr .a ptr (sioReti (storeWr0 .a (wr0Byte crc 7#3 ptr) s))) = _
    rw [sioReti_eq]
    rfl

/-! Writes to WR1 to WR7. -/

/-- A register write stores its byte in its register and leaves the seven others. -/
theorem SioChannel.setWr_wr_get (ch : SioChannel) (n : BitVec 3) (d : Byte) (k : Fin 8) :
    (ch.setWr n d).wr[k] = if k.val = n.toNat then d else ch.wr[k] := by
  simp only [SioChannel.setWr, Fin.getElem_fin, Vector.getElem_set, eq_comm]

/-- A register write with the pointer at `n` changes its register, the arm flag and the pointer
(42_serial_fifo.md R209). -/
theorem SioChannel.wroteReg_frame (ch : SioChannel) (d : Byte) :
    ch.wroteReg d = { ch with wr := (ch.wroteReg d).wr, ptr := 0, arm := ch.arm || decide (ch.ptr = 1#3) } := rfl

/-- Settles O21: the channel after the write is `SioChannel.wroteReg`. -/
theorem pointedRegisterWriteSetsOnlyThatRegister : Obligations.PointedRegisterWriteSetsOnlyThatRegister := by
  intro s c d _
  exact ⟨(s.chan c).wroteReg d, rfl, (s.chan c).setWr_wr_get (s.chan c).ptr d, (s.chan c).wroteReg_frame d⟩

end Sys2Proof.Machine
end

section
/-! A received byte (42_serial_fifo.md R195). What it does to its channel is said once for a full queue and once for one
with room; what it does to the latch, the vector and `CHANGED` follows from whether it raises a condition, which is a
function of the channel alone. -/

namespace Sys2Proof.Machine

/-! Raising a condition (42_serial_fifo.md R193). -/

section
variable {c : Channel} {s : State} (cond : SioCond)

/-- A raise on channel B, or with the line asserted, records the pending bit only. -/
theorem sioRaise_recordsOnly (h : c = .b ∨ s.sioAsserted = true) :
    sioRaise c cond s = s.setChan c ((s.chan c).setPend cond) := by
  rcases h with rfl | h
  · simp [sioRaise]
  · simp [sioRaise, h]

/-- A raise on channel A from the released line asserts it with the vector of the channels after the raise. -/
theorem sioRaise_asserts (h : s.sioAsserted = false) :
    sioRaise .a cond s = (s.setChan .a (s.sioA.setPend cond)).assertSio.markChanged true := by
  simp [sioRaise, h]

end

/-! Which received bytes raise a condition. -/

/-- A byte queued on this channel raises RXA: on every character, or on the first one while armed. -/
def SioChannel.queuedRaises (ch : SioChannel) : Bool :=
  decide (2 ≤ ch.mode.toNat) || (decide (ch.mode = 1#2) && ch.arm)

/-- A byte received on this channel raises a condition: ERR on a full queue, RXA otherwise. -/
def SioChannel.receiveRaises (ch : SioChannel) : Bool :=
  ch.rxOn && if ch.q.length = Config.sioQueueDepth then decide (ch.mode ≠ 0#2) else ch.queuedRaises

/-- Modes 2 and 3 are the two that are neither 0 nor 1. -/
theorem two_le_mode_iff (m : BitVec 2) : 2 ≤ m.toNat ↔ m ≠ 0#2 ∧ m ≠ 1#2 := by
  revert m
  decide

/-- A received byte sets its channel, after which it raises a condition or not as `SioChannel.receiveRaises` says. -/
theorem sioPush_sets_or_raises (c : Channel) (b : Byte) (s : State) :
    ((s.chan c).receiveRaises = false ∧ ∃ ch, sioPush c b s = s.setChan c ch) ∨
    ((s.chan c).receiveRaises = true ∧ ∃ cond ch, sioPush c b s = sioRaise c cond (s.setChan c ch)) := by
  unfold SioChannel.receiveRaises SioChannel.queuedRaises
  rcases sioPush_cases c b s with
    ⟨hoff, h⟩ | ⟨hon, hfull, ⟨hmode, h⟩ | ⟨hmode, h⟩⟩ |
    ⟨hon, hroom, ⟨hmode, h⟩ | ⟨hmode, harm, h⟩ | ⟨hmode0, hmode1, h⟩⟩
  · exact .inl ⟨by simp [hoff], s.chan c, by rw [h, State.setChan_chan]⟩
  · exact .inl ⟨by simp [hfull, hmode], _, h⟩
  · exact .inr ⟨by simp [hon, hfull, hmode], _, _, h⟩
  · refine .inl ⟨?_, _, h⟩
    rcases hmode with hmode | ⟨hmode, harm⟩
    · simp [hroom, hmode]
    · simp [hroom, hmode, harm]
  · exact .inr ⟨by simp [hon, hroom, hmode, harm], _, _, h⟩
  · exact .inr ⟨by simp [hon, hroom, two_le_mode_iff, hmode0, hmode1], _, _, h⟩

/-! The latch, the vector and `CHANGED` after a received byte. -/

section
variable {c : Channel} {s : State} (b : Byte)

/-- Without a raise, on channel B or with the line asserted, a received byte sets its channel and no more. -/
theorem sioPush_setsChan_only (h : (s.chan c).receiveRaises = false ∨ c = .b ∨ s.sioAsserted = true) :
    ∃ ch, sioPush c b s = s.setChan c ch := by
  rcases sioPush_sets_or_raises c b s with ⟨-, hset⟩ | ⟨hraises, cond, ch, hpush⟩
  · exact hset
  · have hrecord : c = .b ∨ (s.setChan c ch).sioAsserted = true := by simpa [hraises] using h
    rw [hpush, sioRaise_recordsOnly cond hrecord, State.setChan_setChan]
    exact ⟨_, rfl⟩

/-- A condition raised on channel A from the released line asserts the line after its channel was set. -/
theorem sioPush_asserts (hraises : s.sioA.receiveRaises = true) (hreleased : s.sioAsserted = false) :
    ∃ ch, sioPush .a b s = (s.setChan .a ch).assertSio.markChanged true := by
  rcases sioPush_sets_or_raises .a b s with ⟨hnot, -⟩ | ⟨-, cond, ch, hpush⟩
  · exact absurd (hraises.symm.trans hnot) (by decide)
  · rw [hpush, sioRaise_asserts cond (by simpa using hreleased), State.setChan_setChan]
    exact ⟨_, rfl⟩

end

/-! The channel after a received byte. -/

section
variable {c : Channel} {s : State} (b : Byte)

/-- With the receiver off a byte is dropped. -/
theorem sioPush_of_rxOff (hoff : (s.chan c).rxOn = false) : sioPush c b s = s := by
  simp [sioPush, hoff]

/-- On a full queue the newest byte replaces the last one, the overrun flag sets, and ERR becomes pending unless the mode
is 0. -/
theorem chan_sioPush_of_full (hon : (s.chan c).rxOn = true) (hfull : (s.chan c).q.length = Config.sioQueueDepth) :
    (sioPush c b s).chan c =
      { s.chan c with
        q := replaceLast (s.chan c).q b
        ovr := true
        pendErr := (s.chan c).pendErr || decide ((s.chan c).mode ≠ 0#2) } := by
  rcases sioPush_cases c b s with
    ⟨hoff, -⟩ | ⟨-, -, ⟨hmode, h⟩ | ⟨hmode, h⟩⟩ | ⟨-, hroom, -⟩
  · exact absurd (hon.symm.trans hoff) (by decide)
  · simp [h, State.chan_setChan_same, hmode]
  · simp [h, sioRaise_chan, State.chan_setChan_same, SioChannel.setPend, hmode]
  · exact absurd hfull hroom

/-- On a queue with room the byte is appended, RXA becomes pending when the byte raises it, and mode 1 disarms. -/
theorem chan_sioPush_of_room (hon : (s.chan c).rxOn = true) (hroom : (s.chan c).q.length ≠ Config.sioQueueDepth) :
    (sioPush c b s).chan c =
      { s.chan c with
        q := (s.chan c).q ++ [b]
        pendRxa := (s.chan c).pendRxa || (s.chan c).queuedRaises
        arm := (s.chan c).arm && decide ((s.chan c).mode ≠ 1#2) } := by
  unfold SioChannel.queuedRaises
  rcases sioPush_cases c b s with
    ⟨hoff, -⟩ | ⟨-, hfull, -⟩ | ⟨-, -, ⟨hmode | ⟨hmode, harm⟩, h⟩ | ⟨hmode, harm, h⟩ | ⟨hmode0, hmode1, h⟩⟩
  · exact absurd (hon.symm.trans hoff) (by decide)
  · exact absurd hfull hroom
  · simp [h, State.chan_setChan_same, hmode]
  · simp [h, State.chan_setChan_same, hmode, harm]
  · simp [h, sioRaise_chan, State.chan_setChan_same, SioChannel.setPend, hmode, harm]
  · simp [h, sioRaise_chan, State.chan_setChan_same, SioChannel.setPend, two_le_mode_iff, hmode0, hmode1]

end

/-- A received byte writes neither a register nor the pointer. -/
theorem chan_sioPush_wr_ptr (c : Channel) (b : Byte) (s : State) :
    ((sioPush c b s).chan c).wr = (s.chan c).wr ∧ ((sioPush c b s).chan c).ptr = (s.chan c).ptr := by
  cases hon : (s.chan c).rxOn with
  | false => simp [sioPush_of_rxOff b hon]
  | true =>
    by_cases hfull : (s.chan c).q.length = Config.sioQueueDepth
    · simp [chan_sioPush_of_full b hon hfull]
    · simp [chan_sioPush_of_room b hon hfull]

/-- Settles O22: the frame, the line's part by whether a condition is raised, and the channel's part by whether the
receiver is on and the queue is full. -/
theorem receivedByteIsDroppedQueuedOrReplacesTheNewest :
    Obligations.ReceivedByteIsDroppedQueuedOrReplacesTheNewest := by
  intro s c b raised
  obtain ⟨hwr, hptr⟩ := chan_sioPush_wr_ptr c b s
  refine ⟨fun h => ?lineKept, fun hraised hc hreleased => ?lineAsserted, sioPush_frame c b s, hwr, hptr,
    sioPush_of_rxOff b, fun hon hfull => ?full, fun hon hroom => ?room⟩
  case lineKept =>
    obtain ⟨ch, hpush⟩ := sioPush_setsChan_only b h
    simp [hpush]
  case lineAsserted =>
    subst hc
    obtain ⟨ch, hpush⟩ := sioPush_asserts b hraised hreleased
    simp [hpush, State.markChanged]
  case full =>
    rw [chan_sioPush_of_full b hon hfull]
    exact ⟨rfl, rfl, rfl, rfl, rfl⟩
  case room =>
    rw [chan_sioPush_of_room b hon hroom]
    exact ⟨rfl, rfl, rfl, (Bool.or_assoc _ _ _).symm, rfl⟩

end Sys2Proof.Machine
end

section
/-! The UART's register access (43_uart.md R261 to R279), a tick (R283) and a pulse (R284). A register read or write is
described once for every register of its form; each part of a tick has one equation, and a tick is their composition. -/

namespace Sys2Proof.Machine

theorem State.markChanged_false (s : State) : s.markChanged false = s := by
  simp only [State.markChanged, Bool.or_false]

/-! Register reads and writes. -/

section
variable {s : State} {i : Nat} {n : UartUnit} (hn : s.uarts[i]? = some n)
include hn

/-- A read that keeps the registers and asks for no `CHANGED` has its byte as result and no other effect. -/
theorem uartIn_of_readOnly (value : Uart → Byte) :
    uartIn i s value (fun u => u) (fun _ => false) = .next (s.ret (value n.uart)) := by
  rw [uartIn_next hn, State.setUart_get s i n hn, State.markChanged_false]

/-- A write that asks for no `CHANGED` replaces the registers of its UART and nothing else. -/
theorem uartOut_of_silent (after : Uart → Uart) :
    uartOut i s after false = .next (s.setUart i { n with uart := after n.uart }) := by
  rw [uartOut_next hn, State.markChanged_false]

/-- A write that keeps the registers and asks for no `CHANGED` changes nothing. -/
theorem uartOut_of_ignored : uartOut i s (fun u => u) false = .next s := by
  rw [uartOut_of_silent hn, State.setUart_get s i n hn]

end

/-- Settles O26: each of the six is a read that keeps the registers. -/
theorem plainUartReadsChangeNothing : Obligations.PlainUartReadsChangeNothing := by
  intro s i n hn
  exact ⟨uartIn_of_readOnly hn Uart.dll, uartIn_of_readOnly hn Uart.ier, uartIn_of_readOnly hn Uart.dlm,
    uartIn_of_readOnly hn Uart.lcr, uartIn_of_readOnly hn Uart.mcr, uartIn_of_readOnly hn Uart.scr⟩

/-- Settles O29: six writes of one register each, and the ignored write. -/
theorem plainUartWritesSetOnlyTheirRegister : Obligations.PlainUartWritesSetOnlyTheirRegister := by
  intro s i n d hn after
  exact ⟨uartOut_of_silent hn fun u => { u with dll := d }, uartOut_of_silent hn fun u => { u with dlm := d },
    uartOut_of_silent hn fun u => { u with fcr := d }, uartOut_of_silent hn fun u => { u with lcr := d },
    uartOut_of_silent hn fun u => { u with mcr := d }, uartOut_of_silent hn fun u => { u with scr := d },
    fun _ => uartOut_of_ignored hn⟩

/-- Settles O30: the registers after the write are `Uart.wroteIer`, and the write asks for `CHANGED`. -/
theorem enableWriteDropsDisabledPendingBits : Obligations.EnableWriteDropsDisabledPendingBits := by
  intro s i n d hn
  change uartOut i s (fun u => u.wroteIer d) true = _
  rw [uartOut_next hn]
  simp only [State.setUart, State.markChanged, Uart.wroteIer, Bool.or_true]

/-! A pulse. -/

/-- A pulse toggles DCD, sets DDCD, and raises MS when it is enabled (43_uart.md R284). -/
theorem uartPulse_eq (n : UartUnit) :
    uartPulse n =
      ({ n with uart := { n.uart with msr := (n.uart.msr ^^^ 0x80) ||| 0x08
                                      pendMs := n.uart.pendMs || n.uart.ier.getLsbD 3 } },
        n.uart.ier.getLsbD 3 && !n.uart.pendMs) := by
  simp only [uartPulse, uartRaise_fst, uartRaise_snd, Uart.setPend, Uart.pend, Uart.enabled]

/-- Settles O33: with the feature off the event answers its state; with it on every UART takes a pulse. -/
theorem pulseTogglesCarrierDetectWhenEnabled : Obligations.PulseTogglesCarrierDetectWhenEnabled := by
  intro s
  change (_ → execEvtPulse s = _) ∧ (_ → execEvtPulse s = _)
  refine ⟨fun hoff => ?off, fun hon => ?on⟩
  case off => simp [execEvtPulse, hoff]
  case on => simp [execEvtPulse, hon, forUarts, uartPulse_eq]

/-! The three parts of a tick. -/

/-- With the holding register empty and a byte offered, the byte moves from the line to the register. -/
theorem uartLoad_of_offered {n : UartUnit} {b : Byte} {r : List Byte} (hempty : n.uart.lsr.getLsbD 0 = false)
    (hbound : n.line.bound = true) (hrx : n.line.rx = b :: r) :
    uartLoad n = { uart := { n.uart with rbr := b, lsr := n.uart.lsr ||| 0x01 }, line := { n.line with rx := r } } := by
  have htakes : (!n.uart.dataReady && n.line.rxReady) = true := by
    rw [Uart.dataReady, hempty, HostLine.rxReady, hbound, hrx]
    rfl
  rw [uartLoad, if_pos htakes, HostLine.consumed, hrx]
  rfl

/-- With the holding register full or no byte offered, nothing moves. -/
theorem uartLoad_of_not_offered {n : UartUnit}
    (h : n.uart.lsr.getLsbD 0 = true ∨ n.line.bound = false ∨ n.line.rx = []) : uartLoad n = n := by
  rcases h with hfull | hunbound | hnone
  · simp [uartLoad, Uart.dataReady, hfull]
  · simp [uartLoad, HostLine.rxReady, hunbound]
  · simp [uartLoad, HostLine.rxReady, hnone]

/-- RX becomes pending while the holding register is full and RX is enabled. -/
theorem uartTickRx_eq (u : Uart) :
    uartTickRx u =
      ({ u with pendRx := u.pendRx || u.lsr.getLsbD 0 && u.ier.getLsbD 0 },
        u.lsr.getLsbD 0 && u.ier.getLsbD 0 && !u.pendRx) := by
  unfold uartTickRx Uart.dataReady
  cases u.lsr.getLsbD 0 with
  | false => simp
  | true => simp [Prod.ext_iff, uartRaise_fst, uartRaise_snd, Uart.setPend, Uart.pend, Uart.enabled]

/-- THRE, TEMT and the THRE pending bit follow the output's readiness. -/
theorem uartTickTx_eq (ready : Bool) (u : Uart) :
    uartTickTx ready u =
      ({ u with lsr := if ready then u.lsr ||| 0x60 else u.lsr &&& 0x9F
                pendThre := ready && (u.pendThre || u.ier.getLsbD 1) },
        !ready || u.ier.getLsbD 1 && !u.pendThre) := by
  cases ready with
  | false => simp [uartTickTx]
  | true => simp [Prod.ext_iff, uartTickTx, uartRaise_fst, uartRaise_snd, Uart.setPend, Uart.pend, Uart.enabled]

/-! A tick. -/

/-- A tick in terms of its first part: what the other two make of the unit after the load (43_uart.md R283). -/
theorem uartTick_eq (n : UartUnit) :
    uartTick n =
      let m := uartLoad n
      let ready := m.line.txReadyNow
      ({ m with uart :=
          { m.uart with
            lsr := if ready then m.uart.lsr ||| 0x60 else m.uart.lsr &&& 0x9F
            pendRx := m.uart.pendRx || m.uart.lsr.getLsbD 0 && m.uart.ier.getLsbD 0
            pendThre := ready && (m.uart.pendThre || m.uart.ier.getLsbD 1) } },
        m.uart.lsr.getLsbD 0 && m.uart.ier.getLsbD 0 && !m.uart.pendRx ||
          (!ready || m.uart.ier.getLsbD 1 && !m.uart.pendThre)) := by
  simp only [uartTick, uartTickRx_eq, uartTickTx_eq]

/-- Settles O32: the tick after the load's two cases. -/
theorem uartTickSamplesItsHostLine : Obligations.UartTickSamplesItsHostLine := by
  intro n b r sent thre moved
  refine ⟨fun hempty hbound hrx => ?loaded, fun h => ?kept⟩
  case loaded =>
    have hfull : (n.uart.lsr ||| 0x01).getLsbD 0 = true := by simp
    simp only [uartTick_eq, uartLoad_of_offered hempty hbound hrx, hfull, Bool.true_and]
    exact ⟨rfl, (Bool.or_assoc _ _ _).symm⟩
  case kept =>
    simp only [uartTick_eq, uartLoad_of_not_offered h]
    exact ⟨rfl, (Bool.or_assoc _ _ _).symm⟩

end Sys2Proof.Machine
end

section
/-! The disk bridge's register reads (44_disk_bridge.md R321) and its writes of `DLO`, `DHI` and `DIR` (R322 to R324): one
equation per operation. Each read answers `State.ret` of its register, whose frame is the `State.ret_` lemmas; none of
the seven reaches `writeTransfer` or `readTransfer`. -/

namespace Sys2Proof.Machine

section
variable (d : Byte) (s : State)

theorem exec_inDbDlo : exec .inDbDlo s = .next (s.ret s.db.dlo) := rfl
theorem exec_inDbDhi : exec .inDbDhi s = .next (s.ret s.db.dhi) := rfl
theorem exec_inDbCtl : exec .inDbCtl s = .next (s.ret s.db.ctl) := rfl
theorem exec_inDbDir : exec .inDbDir s = .next (s.ret s.db.dir) := rfl
theorem exec_outDbDlo : exec (.outDbDlo d) s = .next { s with db := { s.db with dlo := d } } := rfl
theorem exec_outDbDhi : exec (.outDbDhi d) s = .next { s with db := { s.db with dhi := d } } := rfl
theorem exec_outDbDir : exec (.outDbDir d) s = .next { s with db := { s.db with dir := d } } := rfl

end

/-- Settles O35, from the equation of each of the seven operations. -/
theorem diskRegisterAccessHasNoTransfer : Obligations.DiskRegisterAccessHasNoTransfer := by
  intro s d
  exact ⟨exec_inDbDlo s, exec_inDbDhi s, exec_inDbCtl s, exec_inDbDir s,
    exec_outDbDlo d s, exec_outDbDhi d s, exec_outDbDir d s⟩

end Sys2Proof.Machine
end

section
/-! The interrupt arbiter's poll (45_interrupt_arbiter.md R350, R351) and the fetch that completes a RETI sequence (R352,
R360). The scan of the priority order is a search of that list, and a poll is described by what the search finds; a return
is a poll after the live source was released. -/

namespace Sys2Proof.Machine

/-! What each source shows (45_interrupt_arbiter.md R351). -/

theorem offer_sio (s : State) : offer s .sio = if s.sioAsserted then some s.sioVec else none := rfl

theorem offer_uart {s : State} {i : Nat} {n : UartUnit} {k : UartConfig} (hn : s.uarts[i]? = some n)
    (hk : s.cfg.uarts[i]? = some k) : offer s (.uart i) = if n.uart.pendAny then some k.vector else none := by
  simp only [offer, hn, hk]

theorem Uart.pendAny_iff (u : Uart) :
    u.pendAny = true ↔ u.pendRx = true ∨ u.pendThre = true ∨ u.pendMs = true := by
  simp [Uart.pendAny, or_assoc]

/-! The scan of the priority order (45_interrupt_arbiter.md R350). -/

/-- The scan is the search of the order for a source with an offer. -/
theorem firstOffer_eq_findSome? (s : State) (order : List Source) :
    firstOffer s order = order.findSome? fun src => (offer s src).map (src, ·) := by
  induction order with
  | nil => rfl
  | cons src rest ih =>
    rw [firstOffer, List.findSome?_cons, ih]
    cases offer s src <;> rfl

theorem firstOffer_eq_none {s : State} {order : List Source} (h : ∀ src ∈ order, offer s src = none) :
    firstOffer s order = none := by
  simpa [firstOffer_eq_findSome?] using h

theorem firstOffer_of_split {s : State} {before after : List Source} {src : Source} {v : Byte}
    (hbefore : ∀ x ∈ before, offer s x = none) (hsrc : offer s src = some v) :
    firstOffer s (before ++ src :: after) = some (src, v) := by
  have hnone := firstOffer_eq_none hbefore
  rw [firstOffer_eq_findSome?] at hnone ⊢
  simp [List.findSome?_append, hnone, hsrc]

/-! A poll. -/

section
variable {s : State}

theorem exec_evtPoll (s : State) : exec .evtPoll s = .next (poll s) := rfl

/-- With a live source, or with no offer in the order, a poll clears `CHANGED` only. -/
theorem poll_of_silent (h : s.live ≠ none ∨ firstOffer s s.cfg.arbOrder = none) : poll s = { s with changed := false } := by
  rcases poll_cases s with ⟨-, hpoll⟩ | ⟨src, v, hfree, hfirst, -⟩
  · exact hpoll
  · simp [hfree, hfirst] at h

/-- With no live source, a poll makes the first offer live and injects its vector. -/
theorem poll_of_firstOffer {src : Source} {v : Byte} (hfree : s.live = none)
    (hfirst : firstOffer s s.cfg.arbOrder = some (src, v)) :
    poll s = { s with changed := false, live := some src, events := s.events ++ [.inject v] } := by
  simp [poll, hfree, hfirst, State.emit]

end

/-- Settles O40: the three outcomes of a poll by what the scan finds, then what each source shows. -/
theorem pollInjectsTheFirstPendingSource : Obligations.PollInjectsTheFirstPendingSource := by
  intro s
  rw [exec_evtPoll]
  refine ⟨fun hlive => ?owned, fun _ hnone => ?nothingPending, fun before after src v hfree horder hbefore hsrc => ?injects,
    fun hline => ?sioAsserted, fun hline => ?sioReleased,
    fun i n k hn hk => ⟨fun hpend => ?uartPending, fun hrx hthre hms => ?uartQuiet⟩⟩
  case owned => rw [poll_of_silent (.inl hlive)]
  case nothingPending => rw [poll_of_silent (.inr (firstOffer_eq_none hnone))]
  case injects => rw [poll_of_firstOffer hfree (horder ▸ firstOffer_of_split hbefore hsrc)]
  case sioAsserted => simp [offer_sio, hline]
  case sioReleased => simp [offer_sio, hline]
  case uartPending => rw [offer_uart hn hk, if_pos ((Uart.pendAny_iff _).2 hpend)]
  case uartQuiet =>
    rw [offer_uart hn hk, if_neg]
    simp [Uart.pendAny_iff, hrx, hthre, hms]

/-! A return (45_interrupt_arbiter.md R352). -/

/-- A return with the SIO live re-evaluates the SIO's line, releases the live source and polls. -/
theorem onReti_of_sio {s : State} (h : s.live = some .sio) : onReti s = poll { sioReti s with live := none } := by
  rw [onReti, if_pos h]

/-- A return with another source live, or none, releases it and polls. -/
theorem onReti_of_not_sio {s : State} (h : s.live ≠ some .sio) : onReti s = poll { s with live := none } := by
  rw [onReti, if_neg h]

/-! Opcode fetches at a CPU address. -/

/-- Every address of a valid configuration translates inside its array (40_bank_translator.md R137). -/
theorem translateAddr_inRange {s : State} (hcfg : configValid s.cfg = true) (a : Addr) :
    (translateAddr s a).inRange s.cfg = true := by
  unfold translateAddr
  split
  · exact upperLoc_inRange hcfg _
  · exact lowerLoc_inRange s _

theorem exec_mfetchOf (s : State) (a : Addr) : exec (mfetchOf a) s = fetchAt (translateAddr s a) s := by
  unfold mfetchOf translateAddr
  split <;> rfl

/-- After `ED`, a fetched `4D` is a return (45_interrupt_arbiter.md R360). -/
theorem sniffStep_of_return {s : State} (h : s.sniff = .afterEd) :
    sniffStep 0x4D s = onReti ({ s with sniff := .idle }.emit .reti) := by
  simp [sniffStep, h]

/-- Settles O41: the fetch answers the detector's step on `4D`, which is a return; its two cases are whether the SIO is
live. -/
theorem returnSequenceReleasesTheLineAndRepolls : Obligations.ReturnSequenceReleasesTheLineAndRepolls := by
  intro s a hcfg hsniff hbyte
  have hfetch : exec (mfetchOf a) s = .next (onReti ({ s.ret 0x4D with sniff := .idle }.emit .reti)) := by
    rw [exec_mfetchOf, fetchAt_next (translateAddr_inRange hcfg a), hbyte, sniffStep_of_return (by exact hsniff)]
  rw [hfetch]
  refine ⟨fun hlive => ?other, fun hlive => ?sio⟩
  case other =>
    rw [onReti_of_not_sio (by exact hlive)]
    rfl
  case sio =>
    rw [onReti_of_sio (by exact hlive), sioReti_eq]
    rfl

end Sys2Proof.Machine
end

section
/-! Who moves the arbiter and the detector (45_interrupt_arbiter.md R354, R362). What they hold and emit is one view of the
state; every operation but the fetches, the poll and the two resets is shown once to keep it, and each of those four kinds
is described on its own. -/

namespace Sys2Proof.Machine

/-! The view. -/

/-- The event is one the arbiter or the detector emits. -/
def Event.ofArbiter : Event → Bool
  | .inject _ | .reti => true
  | _ => false

/-- The live source, the detector's state, and the events the two units emitted, in order. -/
structure ArbiterView where
  live : Option Source
  sniff : Sniff
  emitted : List Event

/-- The view of a state. -/
def State.arbiter (s : State) : ArbiterView := ⟨s.live, s.sniff, s.events.filter Event.ofArbiter⟩

/-- Equal views count equally many injections. -/
theorem injectCount_of_arbiter {s t : State} (h : t.arbiter = s.arbiter) : injectCount t = injectCount s := by
  have hcount : ∀ u : State, injectCount u = u.arbiter.emitted.countP Event.isInject := by
    intro u
    rw [State.arbiter, List.countP_filter]
    refine List.countP_congr fun e _ => ?_
    cases e <;> simp [Event.isInject, Event.ofArbiter]
  rw [hcount, hcount, h]

/-! The view after each operation on the state. -/

section
variable (s : State)

@[simp] theorem State.arbiter_ret (b : Byte) : (s.ret b).arbiter = s.arbiter := rfl
@[simp] theorem State.arbiter_retDraw : s.retDraw.arbiter = s.arbiter := rfl
@[simp] theorem State.arbiter_markChanged (c : Bool) : (s.markChanged c).arbiter = s.arbiter := rfl
@[simp] theorem State.arbiter_setUart (i : Nat) (n : UartUnit) : (s.setUart i n).arbiter = s.arbiter := rfl
@[simp] theorem arbiter_forUarts (f : UartUnit → UartUnit × Bool) : (forUarts f s).arbiter = s.arbiter := rfl

theorem State.arbiter_emit {e : Event} (he : e.ofArbiter = false) : (s.emit e).arbiter = s.arbiter := by
  simp [State.arbiter, he]

@[simp] theorem State.arbiter_setChan (c : Channel) (ch : SioChannel) : (s.setChan c ch).arbiter = s.arbiter := by
  cases c <;> rfl

@[simp] theorem State.arbiter_setSioLine (c : Channel) (l : HostLine) : (s.setSioLine c l).arbiter = s.arbiter := by
  cases c <;> rfl

@[simp] theorem State.arbiter_writeLoc (l : Loc) (d : Byte) : (s.writeLoc l d).arbiter = s.arbiter := by
  rw [State.writeLoc_frame]
  rfl

@[simp] theorem arbiter_sioReturn (c : Channel) : (sioReturn c s).arbiter = s.arbiter := by
  cases c with
  | a =>
    rw [sioReturn, sioReti_frame]
    rfl
  | b => rfl

@[simp] theorem arbiter_sioPop (c : Channel) : (sioPop c s).arbiter = s.arbiter := by
  rcases sioPop_cases c s with ⟨-, h⟩ | ⟨b, r, -, h⟩ <;> simp [h]

@[simp] theorem arbiter_sioTickChan (c : Channel) : (sioTickChan c s).arbiter = s.arbiter := by
  rw [sioTickChan_frame]
  cases c <;> rfl

@[simp] theorem arbiter_controlWrite (d : Byte) : (controlWrite d s).arbiter = s.arbiter := by
  obtain ⟨es, hevents, hkinds⟩ := controlWrite_events d s
  have hnone : es.filter Event.ofArbiter = [] := by
    refine List.filter_eq_nil_iff.2 fun e he => ?_
    rcases hkinds e he with rfl | htransfer
    · simp [Event.ofArbiter]
    · cases e <;> simp [Event.isTransfer, Event.ofArbiter] at htransfer ⊢
  rw [controlWrite_frame]
  simp [State.arbiter, hevents, hnone]

end

/-! The outcomes that keep the view. -/

/-- Where the outcome is a next state, its view is that of `s`. -/
def KeepsArbiter (s : State) (o : Host.Outcome State Fault Refusal) : Prop := ∀ t, o = .next t → t.arbiter = s.arbiter

section
variable {s : State}

theorem KeepsArbiter.next {t : State} (h : t.arbiter = s.arbiter) : KeepsArbiter s (.next t) := by
  rintro _ ⟨⟩
  exact h

theorem readAt_keepsArbiter (l : Loc) : KeepsArbiter s (readAt l s) := by
  intro t h
  obtain ⟨-, rfl⟩ := readAt_inv h
  rfl

theorem writeAt_keepsArbiter (l : Loc) (d : Byte) : KeepsArbiter s (writeAt l d s) := by
  intro t h
  obtain ⟨-, ⟨-, rfl⟩ | ⟨-, rfl⟩⟩ := writeAt_inv h
  · rfl
  · simp

theorem wr0Write_keepsArbiter (c : Channel) (crc : BitVec 2) (cmd ptr : BitVec 3) {act : State → State}
    (hact : ∀ u, (act u).arbiter = u.arbiter) : KeepsArbiter s (wr0Write c crc cmd ptr act s) :=
  .next (by simp [setPtr, storeWr0, hact])

theorem execInSioCtrl_keepsArbiter (c : Channel) : KeepsArbiter s (execInSioCtrl c s) := by
  unfold execInSioCtrl
  split
  · split
    · rintro _ ⟨⟩
    · exact .next (by simp [setPtr])
  all_goals exact .next (by simp [setPtr])

theorem uartIn_keepsArbiter (i : Nat) (value : Uart → Byte) (after : Uart → Uart) (touch : Uart → Bool) :
    KeepsArbiter s (uartIn i s value after touch) := by
  intro t h
  obtain ⟨n, -, rfl⟩ := uartIn_inv h
  rfl

theorem uartOut_keepsArbiter (i : Nat) (after : Uart → Uart) (touch : Bool) :
    KeepsArbiter s (uartOut i s after touch) := by
  intro t h
  obtain ⟨n, -, rfl⟩ := uartOut_inv h
  rfl

theorem execOutUartThr_keepsArbiter (i : Nat) (d : Byte) : KeepsArbiter s (execOutUartThr i d s) := by
  unfold execOutUartThr
  split
  · rintro _ ⟨⟩
  · exact .next (State.arbiter_emit _ rfl)

theorem execEvtTick_keepsArbiter : KeepsArbiter s (execEvtTick s) := by
  unfold execEvtTick
  split
  · rintro _ ⟨⟩
  · exact .next (by simp [sioTick])

theorem execEvtPulse_keepsArbiter : KeepsArbiter s (execEvtPulse s) :=
  .next (by split <;> rfl)

end

/-- The operation is a fetch, a poll or a reset: the four kinds that reach the arbiter or the detector. -/
def reachesArbiter : Instr → Bool
  | .mfetchLo _ | .mfetchHi _ | .evtPoll | .evtReset | .evtCpuReset => true
  | _ => false

/-- Every operation that is no fetch, no poll and no reset keeps the view. -/
theorem exec_keepsArbiter (i : Instr) (s : State) (h : reachesArbiter i = false) : KeepsArbiter s (exec i s) := by
  cases i with
  | mfetchLo | mfetchHi | evtPoll | evtReset | evtCpuReset => cases h
  | mrdLo | mrdHi => exact readAt_keepsArbiter _
  | mwrLo | mwrHi => exact writeAt_keepsArbiter _ _
  | outBsel | outRb | outWin | inBsel | inRb | inWin | outTrace | inTrace | inUnmapped | outUnmapped => exact .next rfl
  | inSioData c => exact .next (arbiter_sioPop s c)
  | outSioData c d => exact .next ((State.arbiter_emit _ rfl).trans (s.arbiter_setSioLine _ _))
  | inSioCtrl => exact execInSioCtrl_keepsArbiter _
  | outSioCmd0 | outSioCmd1 | outSioCmd2 | outSioCmd5 => exact wr0Write_keepsArbiter _ _ _ _ fun _ => rfl
  | outSioCmd3 | outSioCmd4 | outSioCmd6 => exact wr0Write_keepsArbiter _ _ _ _ fun u => u.arbiter_setChan _ _
  | outSioCmd7 c => exact wr0Write_keepsArbiter _ _ _ _ fun u => arbiter_sioReturn u c
  | outSioWrn => exact .next (s.arbiter_setChan _ _)
  | inUartRbr | inUartDll | inUartIer | inUartDlm | inUartIir | inUartLcr | inUartMcr | inUartLsr | inUartMsr
  | inUartScr =>
    unfold exec
    exact uartIn_keepsArbiter _ _ _ _
  | outUartThr => exact execOutUartThr_keepsArbiter _ _
  | outUartDll | outUartIer | outUartDlm | outUartFcr | outUartLcr | outUartMcr | outUartScr | outUartLsrMsr =>
    unfold exec
    exact uartOut_keepsArbiter _ _ _
  | inDbDlo | inDbDhi | inDbCtl | inDbDir | outDbDlo | outDbDhi | outDbDir => exact .next rfl
  | outDbCtl d => exact .next (arbiter_controlWrite s d)
  | evtTick => exact execEvtTick_keepsArbiter
  | evtPulse => exact execEvtPulse_keepsArbiter

/-! The poll, the fetch and the button reset. -/

theorem poll_sniff (s : State) : (poll s).sniff = s.sniff := by
  rw [poll_frame]

/-- The button reset touches the detector, the bank-select registers and the events (70_reset_and_hazards.md R452). -/
theorem exec_evtCpuReset_inv {s t : State} (h : exec .evtCpuReset s = .next t) :
    t.sniff = .idle ∧ t.live = s.live ∧ t.events = s.events ++ [.cpuReset] := by
  cases h
  cases s.cfg.buttonResetsBank <;> exact ⟨rfl, rfl, rfl⟩

theorem retiCount_poll (s : State) : retiCount (poll s) = retiCount s := by
  rcases poll_cases s with ⟨-, h⟩ | ⟨src, v, -, -, h⟩ <;> simp [h, retiCount]

theorem retiCount_onReti (s : State) : retiCount (onReti s) = retiCount s := by
  by_cases h : s.live = some .sio
  · rw [onReti_of_sio h, retiCount_poll, sioReti_eq]
    rfl
  · rw [onReti_of_not_sio h, retiCount_poll]
    rfl

/-- A step of the detector is a return and emits one RETI, or moves the detector's own state only. -/
theorem sniffStep_returns_or_moves (b : Byte) (s : State) :
    retiCount (sniffStep b s) = retiCount s + 1 ∨ ∃ q : Sniff, sniffStep b s = { s with sniff := q } := by
  rcases sniffStep_cases b s with hmoves | ⟨-, -, hreturn⟩
  · exact .inr hmoves
  · left
    rw [hreturn, retiCount_onReti]
    simp [retiCount]

/-- A fetch that emits no RETI keeps the live source and the events. -/
theorem fetchAt_inv_of_no_return {l : Loc} {s t : State} (h : fetchAt l s = .next t) (hreti : retiCount t = retiCount s) :
    t.live = s.live ∧ t.events = s.events := by
  obtain ⟨-, rfl⟩ := fetchAt_inv h
  rcases sniffStep_returns_or_moves (s.readLoc l) (s.ret (s.readLoc l)) with hreturn | ⟨q, hmoves⟩
  · exact absurd (hreti.symm.trans hreturn) (Nat.ne_of_lt (Nat.lt_succ_self _))
  · rw [hmoves]
    exact ⟨rfl, rfl⟩

/-! The obligations. -/

/-- Settles O45: the poll and the two resets one by one; every other operation that is no fetch keeps the view. -/
theorem onlyFetchesAndResetsMoveTheDetector : Obligations.OnlyFetchesAndResetsMoveTheDetector := by
  intro i s t hexec hfetch
  cases hreach : reachesArbiter i with
  | false =>
    have hsniff : t.sniff = s.sniff := congrArg ArbiterView.sniff (exec_keepsArbiter i s hreach t hexec)
    rwa [if_neg]
    rintro (rfl | rfl) <;> cases hreach
  | true =>
    cases i with
    | mfetchLo | mfetchHi => cases hfetch
    | evtPoll =>
      cases hexec
      exact poll_sniff s
    | evtReset =>
      cases hexec
      rfl
    | evtCpuReset => exact (exec_evtCpuReset_inv hexec).1
    | _ => cases hreach

/-- Settles O46: a poll finds the line owned, a fetch that is no return and the button reset leave the live source and
emit no injection, and every other operation keeps the view. -/
theorem liveSourceStaysUntilReturnOrReset : Obligations.LiveSourceStaysUntilReturnOrReset := by
  intro i s t src hexec hlive hreset hreti
  rw [← hlive]
  cases hreach : reachesArbiter i with
  | false =>
    have hview := exec_keepsArbiter i s hreach t hexec
    exact ⟨congrArg ArbiterView.live hview, injectCount_of_arbiter hview⟩
  | true =>
    cases i with
    | mfetchLo | mfetchHi =>
      obtain ⟨hkept, hevents⟩ := fetchAt_inv_of_no_return hexec hreti
      exact ⟨hkept, by rw [hevents]⟩
    | evtPoll =>
      cases hexec
      have howned : s.live ≠ none := by simp [hlive]
      rw [poll_of_silent (.inl howned)]
      exact ⟨rfl, rfl⟩
    | evtReset => exact absurd rfl hreset
    | evtCpuReset =>
      obtain ⟨-, hkept, hevents⟩ := exec_evtCpuReset_inv hexec
      exact ⟨hkept, by simp [hevents, Event.isInject]⟩
    | _ => cases hreach

end Sys2Proof.Machine
end

section
/-! The two resets (70_reset_and_hazards.md R450, R452). A power-on reset is `resetRegisters`, whose values are those of
10_state.md; the button reset is one equation per setting of `BUTTON_RESETS_BANK`. -/

namespace Sys2Proof.Machine

section
variable (s : State)

theorem exec_evtReset : exec .evtReset s = .next ((resetRegisters s).emit .cpuReset) := rfl

theorem exec_evtCpuReset : exec .evtCpuReset s =
    .next ((if s.cfg.buttonResetsBank then resetBanks { s with sniff := .idle } else { s with sniff := .idle }).emit
      .cpuReset) := rfl

end

section
variable {s : State}

theorem exec_evtCpuReset_of_banksKept (h : s.cfg.buttonResetsBank = false) :
    exec .evtCpuReset s = .next ({ s with sniff := .idle }.emit .cpuReset) := by
  simp [exec_evtCpuReset, h]

theorem exec_evtCpuReset_of_banksReset (h : s.cfg.buttonResetsBank = true) :
    exec .evtCpuReset s = .next ((resetBanks { s with sniff := .idle }).emit .cpuReset) := by
  simp [exec_evtCpuReset, h]

end

/-- Settles O48: the power-on values of `resetRegisters`, written out for the channels, the UARTs and the disk bridge. -/
theorem powerOnResetRestoresEveryRegister : Obligations.PowerOnResetRestoresEveryRegister := by
  intro s
  rw [exec_evtReset]
  simp only [resetRegisters, State.emit, SioChannel.reset, Uart.reset, DiskBridge.reset]

/-- Settles O49: the two settings of `BUTTON_RESETS_BANK`. -/
theorem buttonResetKeepsDeviceState : Obligations.ButtonResetKeepsDeviceState := by
  intro s
  constructor
  · exact exec_evtCpuReset_of_banksKept
  · exact exec_evtCpuReset_of_banksReset

end Sys2Proof.Machine
end

section
/-! The decoder and the encoder are inverse (30_encoding.md R100 to R113). A port of a valid configuration and its device
and offset determine each other; with that, each device's part of the decoder is read off once in each direction, and O52
and O53 are one case per form of word. -/

namespace Sys2Proof

open Machine

/-! Ports: from a device's offset to the lookup of its port. -/

/-- A port number below 256 is the port of its own I/O address. -/
theorem addrPort_ofNat_toNat (p : Byte) : addrPort (BitVec.ofNat 16 p.toNat) = p := by
  refine BitVec.eq_of_toNat_eq ?_
  have hp := p.isLt
  simp only [addrPort, BitVec.extractLsb'_toNat, BitVec.toNat_ofNat, Nat.shiftRight_zero]
  omega

section
variable {c : Config} (hcfg : configValid c = true)
include hcfg

theorem lookupPort_bank : lookupPort c (addrPort (BitVec.ofNat 16 c.portBank)) = some (.bank, 0) :=
  lookupPort_mem hcfg (r := ⟨c.portBank, 1, .bank⟩) (mem_portMap.2 (.inl rfl)) Nat.one_pos

theorem lookupPort_window (hs : c.scheme = .dual) :
    lookupPort c (addrPort (BitVec.ofNat 16 c.portWin)) = some (.window, 0) :=
  lookupPort_mem hcfg (r := ⟨c.portWin, 1, .window⟩) (mem_portMap.2 (.inr (.inl ⟨hs, rfl⟩))) Nat.one_pos

theorem lookupPort_trace : lookupPort c (addrPort (BitVec.ofNat 16 c.tracePort)) = some (.trace, 0) :=
  lookupPort_mem hcfg (r := ⟨c.tracePort, 1, .trace⟩) (mem_portMap.2 (by simp)) Nat.one_pos

theorem lookupPort_sio {o : Nat} (ho : o < 4) :
    lookupPort c (addrPort (BitVec.ofNat 16 (c.sioBase + o))) = some (.sio, o) :=
  lookupPort_mem hcfg (r := ⟨c.sioBase, 4, .sio⟩) (mem_portMap.2 (by simp)) ho

theorem lookupPort_sioData (ch : Channel) :
    ∃ o, lookupPort c (addrPort (BitVec.ofNat 16 (sioDataPort c ch))) = some (.sio, o) ∧
      sioIsData o = true ∧ sioChannel o = ch := by
  cases ch with
  | a => exact ⟨1, lookupPort_sio hcfg (o := 1) (by decide), rfl, rfl⟩
  | b => exact ⟨3, lookupPort_sio hcfg (o := 3) (by decide), rfl, rfl⟩

theorem lookupPort_sioCtrl (ch : Channel) :
    ∃ o, lookupPort c (addrPort (BitVec.ofNat 16 (sioCtrlPort c ch))) = some (.sio, o) ∧
      sioIsData o = false ∧ sioChannel o = ch := by
  cases ch with
  | a => exact ⟨0, lookupPort_sio hcfg (o := 0) (by decide), rfl, rfl⟩
  | b => exact ⟨2, lookupPort_sio hcfg (o := 2) (by decide), rfl, rfl⟩

theorem lookupPort_uart {i o : Nat} (hi : i < c.uarts.length) (ho : o < 8) :
    lookupPort c (addrPort (BitVec.ofNat 16 (uartPort c i o))) = some (.uart i, o) := by
  have hu : c.uarts[i]? = some c.uarts[i] := List.getElem?_eq_getElem hi
  simp only [uartPort, hu]
  exact lookupPort_mem hcfg (r := ⟨c.uarts[i].base, 8, .uart i⟩)
    (mem_portMap.2 (.inr (.inr (.inr (.inl ⟨i, _, hu, rfl⟩))))) ho

theorem lookupPort_disk {o : Nat} (ho : o < c.dbSize) :
    lookupPort c (addrPort (BitVec.ofNat 16 (c.dbBase + o))) = some (.disk, o) :=
  lookupPort_mem hcfg (r := ⟨c.dbBase, c.dbSize, .disk⟩) (mem_portMap.2 (by simp)) ho

end

/-! Ports: from the lookup of a port back to its number. -/

section
variable {c : Config} {p : Byte} {o : Nat}

/-- Offset `o` of a device is port `p`: the device exists under the scheme, the offset is one of its window, and the
device's base and the offset give the port (41_port_dispatch.md R170, R171). -/
def PortOf (c : Config) (p : Byte) (o : Nat) : RegionDevice → Prop
  | .bank => c.portBank = p.toNat
  | .window => c.scheme = .dual ∧ c.portWin = p.toNat
  | .sio => o < 4 ∧ c.sioBase + o = p.toNat
  | .uart i => i < c.uarts.length ∧ o < 8 ∧ uartPort c i o = p.toNat
  | .disk => o < c.dbSize ∧ c.dbBase + o = p.toNat
  | .trace => c.tracePort = p.toNat

/-- A port is looked up at an offset it is the port of. -/
theorem portOf_of_lookupPort {dev : RegionDevice} (h : lookupPort c p = some (dev, o)) : PortOf c p o dev := by
  obtain ⟨r, hr, rfl, hbase, hend, rfl⟩ := findRegion_inv h
  rcases mem_portMap.1 hr with rfl | ⟨hs, rfl⟩ | rfl | ⟨i, u, hu, rfl⟩ | rfl | rfl <;>
    simp only [PortOf] at hbase hend ⊢
  case inr.inr.inr.inl =>
    refine ⟨(List.getElem?_eq_some_iff.1 hu).1, by omega, ?_⟩
    simp only [uartPort, hu]
    omega
  case inr.inl => exact ⟨hs, by omega⟩
  all_goals omega

/-- The data port of the channel an odd offset belongs to. -/
theorem sioDataPort_sioChannel (c : Config) (ho : o < 4) (hd : sioIsData o = true) :
    sioDataPort c (sioChannel o) = c.sioBase + o := by
  interval_cases o
  exacts [absurd hd (by decide), rfl, absurd hd (by decide), rfl]

/-- The control port of the channel an even offset belongs to. -/
theorem sioCtrlPort_sioChannel (c : Config) (ho : o < 4) (hd : ¬ sioIsData o = true) :
    sioCtrlPort c (sioChannel o) = c.sioBase + o := by
  interval_cases o
  exacts [rfl, absurd rfl hd, rfl, absurd rfl hd]

/-- A disk-bridge window of more than two ports has at least four: its size is a power of two. -/
theorem four_le_dbSize (hcfg : configValid c = true) (h : 2 < c.dbSize) : 4 ≤ c.dbSize := by
  have hok := List.all_eq_true.1 (configValid_parts hcfg).1 ⟨c.dbBase, c.dbSize, .disk⟩ (mem_portMap.2 (by simp))
  have hpow : c.dbSize ∈ [1, 2, 4, 8, 16, 32, 64, 128, 256] := by
    simp only [regionOk, Bool.and_eq_true, List.contains_iff_mem] at hok
    exact hok.1.1
  simp only [List.mem_cons, List.not_mem_nil, or_false] at hpow
  omega

end

/-! The fields of a WR0 byte. -/

section
variable (crc : BitVec 2) (cmd ptr : BitVec 3)

@[simp] theorem wr0Byte_crc : (wr0Byte crc cmd ptr).extractLsb' 6 2 = crc := (wr0Byte_fields crc cmd ptr).1
@[simp] theorem wr0Byte_cmd : (wr0Byte crc cmd ptr).extractLsb' 3 3 = cmd := (wr0Byte_fields crc cmd ptr).2.1
@[simp] theorem wr0Byte_ptr : (wr0Byte crc cmd ptr).extractLsb' 0 3 = ptr := (wr0Byte_fields crc cmd ptr).2.2

end

/-- A WR0 byte is its three fields (10_state.md R41). -/
theorem wr0Byte_of_fields (d : Byte) : wr0Byte (d.extractLsb' 6 2) (d.extractLsb' 3 3) (d.extractLsb' 0 3) = d := by
  revert d
  decide

/-! What the word of a port access decodes to. -/

section
variable (v : DecodeView)

theorem decode_inWord (p : Nat) : decode v (inWord p) = .ok (decodeIn v (addrPort (BitVec.ofNat 16 p))) := by
  simp [decode, inWord, readWord]

theorem decode_outWord (p : Nat) (d : Byte) :
    decode v (outWord p d) = .ok (decodeOut v (addrPort (BitVec.ofNat 16 p)) d) := by
  simp [decode, outWord]

variable {v} (hcfg : configValid v.cfg = true)
include hcfg

theorem decode_in_sioData (c : Channel) : decode v (inWord (sioDataPort v.cfg c)) = .ok (.inSioData c) := by
  obtain ⟨o, hlook, hdata, rfl⟩ := lookupPort_sioData hcfg c
  simp [decode_inWord, decodeIn, hlook, hdata]

theorem decode_out_sioData (c : Channel) (d : Byte) :
    decode v (outWord (sioDataPort v.cfg c) d) = .ok (.outSioData c d) := by
  obtain ⟨o, hlook, hdata, rfl⟩ := lookupPort_sioData hcfg c
  simp [decode_outWord, decodeOut, hlook, hdata]

theorem decode_in_sioCtrl (c : Channel) : decode v (inWord (sioCtrlPort v.cfg c)) = .ok (.inSioCtrl c) := by
  obtain ⟨o, hlook, hdata, rfl⟩ := lookupPort_sioCtrl hcfg c
  simp [decode_inWord, decodeIn, hlook, hdata]

theorem decode_out_sioCtrl (c : Channel) (d : Byte) :
    decode v (outWord (sioCtrlPort v.cfg c) d) = .ok (if v.ptr c = 0#3 then decodeWr0 c d else .outSioWrn c d) := by
  obtain ⟨o, hlook, hdata, rfl⟩ := lookupPort_sioCtrl hcfg c
  simp [decode_outWord, decodeOut, hlook, hdata]

/-- With the pointer at 0 the control port takes a WR0 byte, whose command field selects the row. -/
theorem decode_wr0Word {c : Channel} (hptr : v.ptr c = 0#3) (crc : BitVec 2) (cmd ptr : BitVec 3) :
    decode v (wr0Word v.cfg c crc cmd ptr) = .ok (decodeWr0 c (wr0Byte crc cmd ptr)) := by
  rw [wr0Word, decode_out_sioCtrl hcfg, if_pos hptr]

theorem decode_in_uart {i o : Nat} (hi : v.hasUart i = true) (ho : o < 8) :
    decode v (inWord (uartPort v.cfg i o)) = .ok (decodeUartIn i (v.dlabOf i) o) := by
  simp [decode_inWord, decodeIn, lookupPort_uart hcfg (of_decide_eq_true hi) ho]

theorem decode_out_uart {i o : Nat} (hi : v.hasUart i = true) (ho : o < 8) (d : Byte) :
    decode v (outWord (uartPort v.cfg i o) d) = .ok (decodeUartOut i (v.dlabOf i) o d) := by
  simp [decode_outWord, decodeOut, lookupPort_uart hcfg (of_decide_eq_true hi) ho]

theorem decode_in_disk {o : Nat} (ho : o < v.cfg.dbSize) :
    decode v (inWord (v.cfg.dbBase + o)) = .ok (decodeDiskIn o) := by
  simp [decode_inWord, decodeIn, lookupPort_disk hcfg ho]

theorem decode_out_disk {o : Nat} (ho : o < v.cfg.dbSize) (d : Byte) :
    decode v (outWord (v.cfg.dbBase + o) d) = .ok (decodeDiskOut o d) := by
  simp [decode_outWord, decodeOut, lookupPort_disk hcfg ho]

/-- The disk bridge's window is not empty. -/
theorem dbSize_pos : 0 < v.cfg.dbSize :=
  (region_bounds hcfg (r := ⟨v.cfg.dbBase, v.cfg.dbSize, .disk⟩) (mem_portMap.2 (by simp))).2.2

end

/-- Settles O52, device by device: the port of the operation's word is looked up at its own device and offset. -/
theorem decodeOfEncodeIsTheOperation : Obligations.DecodeOfEncodeIsTheOperation := by
  intro v i hcfg hwf
  cases i with
  | mrdLo | mrdHi | mfetchLo | mfetchHi | mwrLo | mwrHi => simp [encode, decode, readWord]
  | evtTick | evtPulse | evtPoll | evtReset | evtCpuReset => simp [encode, eventWord, decode, decodeEvent]
  | outBsel | outRb =>
    have hs := of_decide_eq_true hwf
    simp [encode, decode_outWord, decodeOut, lookupPort_bank hcfg, hs]
  | inBsel | inRb =>
    have hs := of_decide_eq_true hwf
    simp [encode, decode_inWord, decodeIn, lookupPort_bank hcfg, hs]
  | outWin => simp [encode, decode_outWord, decodeOut, lookupPort_window hcfg (of_decide_eq_true hwf)]
  | inWin => simp [encode, decode_inWord, decodeIn, lookupPort_window hcfg (of_decide_eq_true hwf)]
  | outTrace => simp [encode, decode_outWord, decodeOut, lookupPort_trace hcfg]
  | inTrace => simp [encode, decode_inWord, decodeIn, lookupPort_trace hcfg]
  | inUnmapped p =>
    have hnone : lookupPort v.cfg p = none := Option.isNone_iff_eq_none.1 hwf
    simp only [encode, decode_inWord, addrPort_ofNat_toNat, decodeIn, hnone]
  | outUnmapped p d =>
    have hnone : lookupPort v.cfg p = none := Option.isNone_iff_eq_none.1 hwf
    simp only [encode, decode_outWord, addrPort_ofNat_toNat, decodeOut, hnone]
  | inSioData c => exact decode_in_sioData hcfg c
  | outSioData c d => exact decode_out_sioData hcfg c d
  | inSioCtrl c => exact decode_in_sioCtrl hcfg c
  | outSioCmd0 | outSioCmd1 | outSioCmd2 | outSioCmd3 | outSioCmd4 | outSioCmd5 | outSioCmd6 | outSioCmd7 =>
    simp [encode, decode_wr0Word hcfg (eq_of_beq hwf), decodeWr0]
  | outSioWrn c d =>
    have hptr : v.ptr c ≠ 0#3 := by simpa [Instr.wellFormed] using hwf
    simp only [encode, decode_out_sioCtrl hcfg, if_neg hptr]
  | inUartRbr | inUartDll | inUartIer | inUartDlm =>
    simp only [Instr.wellFormed, Bool.and_eq_true, Bool.not_eq_true'] at hwf
    simp [encode, decode_in_uart hcfg hwf.1, decodeUartIn, hwf.2]
  | outUartThr | outUartDll | outUartIer | outUartDlm =>
    simp only [Instr.wellFormed, Bool.and_eq_true, Bool.not_eq_true'] at hwf
    simp [encode, decode_out_uart hcfg hwf.1, decodeUartOut, hwf.2]
  | inUartIir | inUartLcr | inUartMcr | inUartLsr | inUartMsr | inUartScr =>
    simp only [Instr.wellFormed] at hwf
    simp [encode, decode_in_uart hcfg hwf, decodeUartIn]
  | outUartFcr | outUartLcr | outUartMcr | outUartScr =>
    simp only [Instr.wellFormed] at hwf
    simp [encode, decode_out_uart hcfg hwf, decodeUartOut]
  | outUartLsrMsr i msr d =>
    simp only [Instr.wellFormed] at hwf
    cases msr <;> simp [encode, decode_out_uart hcfg hwf, decodeUartOut]
  | inDbDlo => simpa [encode, decodeDiskIn] using decode_in_disk hcfg (dbSize_pos hcfg)
  | outDbDlo d => simpa [encode, decodeDiskOut] using decode_out_disk hcfg (dbSize_pos hcfg) d
  | inDbDhi | inDbCtl | inDbDir =>
    have hsize := of_decide_eq_true hwf
    exact decode_in_disk hcfg (by omega)
  | outDbDhi d | outDbCtl d | outDbDir d =>
    have hsize := of_decide_eq_true hwf
    exact decode_out_disk hcfg (by omega) d


/-! What a word that was decoded encodes to. -/

/-- The operation is well-formed, and its word reads a port: port `p` itself, unless `p` is the disk bridge's, whose
offsets share registers (44_disk_bridge.md R320). -/
def ReadsPort (v : DecodeView) (p : Byte) (i : Instr) : Prop :=
  i.wellFormed v = true ∧ ∃ q, encode v.cfg i = inWord q ∧
    ((∀ o, lookupPort v.cfg p ≠ some (.disk, o)) → q = p.toNat)

/-- The operation is well-formed, and its word writes the byte to a port: port `p` itself, unless `p` is the disk
bridge's. -/
def WritesPort (v : DecodeView) (p d : Byte) (i : Instr) : Prop :=
  i.wellFormed v = true ∧ ∃ q, encode v.cfg i = outWord q d ∧
    ((∀ o, lookupPort v.cfg p ≠ some (.disk, o)) → q = p.toNat)

section
variable {v : DecodeView} {i o : Nat}

/-- A UART read row is well-formed and its word reads the offset it was decoded from. -/
theorem decodeUartIn_inv (hi : v.hasUart i = true) (ho : o < 8) :
    (decodeUartIn i (v.dlabOf i) o).wellFormed v = true ∧
      encode v.cfg (decodeUartIn i (v.dlabOf i) o) = inWord (uartPort v.cfg i o) := by
  interval_cases o <;> cases hdlab : v.dlabOf i <;> simp [decodeUartIn, Instr.wellFormed, encode, hi, hdlab]

/-- A UART write row is well-formed and its word writes the offset it was decoded from. -/
theorem decodeUartOut_inv (hi : v.hasUart i = true) (ho : o < 8) (d : Byte) :
    (decodeUartOut i (v.dlabOf i) o d).wellFormed v = true ∧
      encode v.cfg (decodeUartOut i (v.dlabOf i) o d) = outWord (uartPort v.cfg i o) d := by
  interval_cases o <;> cases hdlab : v.dlabOf i <;> simp [decodeUartOut, Instr.wellFormed, encode, hi, hdlab]

/-- An offset in the disk bridge's window whose register is `DHI` or beyond needs a window of that size. -/
theorem diskRegister_cases (hcfg : configValid v.cfg = true) (ho : o < v.cfg.dbSize) :
    BitVec.ofNat 2 o = 0#2 ∨ (BitVec.ofNat 2 o = 1#2 ∧ 2 ≤ v.cfg.dbSize) ∨
      (BitVec.ofNat 2 o = 2#2 ∧ 4 ≤ v.cfg.dbSize) ∨ (BitVec.ofNat 2 o = 3#2 ∧ 4 ≤ v.cfg.dbSize) := by
  have hfour := four_le_dbSize hcfg
  bv_omega

theorem decodeDiskIn_inv (hcfg : configValid v.cfg = true) (ho : o < v.cfg.dbSize) :
    (decodeDiskIn o).wellFormed v = true ∧ ∃ q, encode v.cfg (decodeDiskIn o) = inWord q := by
  rcases diskRegister_cases hcfg ho with h | ⟨h, hsize⟩ | ⟨h, hsize⟩ | ⟨h, hsize⟩ <;>
    simp only [decodeDiskIn, h]
  · exact ⟨rfl, _, rfl⟩
  all_goals exact ⟨decide_eq_true hsize, _, rfl⟩

theorem decodeDiskOut_inv (hcfg : configValid v.cfg = true) (ho : o < v.cfg.dbSize) (d : Byte) :
    (decodeDiskOut o d).wellFormed v = true ∧ ∃ q, encode v.cfg (decodeDiskOut o d) = outWord q d := by
  rcases diskRegister_cases hcfg ho with h | ⟨h, hsize⟩ | ⟨h, hsize⟩ | ⟨h, hsize⟩ <;>
    simp only [decodeDiskOut, h]
  · exact ⟨rfl, _, rfl⟩
  all_goals exact ⟨decide_eq_true hsize, _, rfl⟩

end

/-- A WR0 row is well-formed at pointer 0 and its word writes the byte it was decoded from. -/
theorem decodeWr0_inv {v : DecodeView} {c : Channel} (hptr : v.ptr c = 0#3) (d : Byte) :
    (decodeWr0 c d).wellFormed v = true ∧ encode v.cfg (decodeWr0 c d) = outWord (sioCtrlPort v.cfg c) d := by
  have hfields := wr0Byte_of_fields d
  obtain ⟨cmd, hcmd⟩ : ∃ cmd, d.extractLsb' 3 3 = cmd := ⟨_, rfl⟩
  rw [hcmd] at hfields
  have hrow : ∀ k : BitVec 3, k = 0#3 ∨ k = 1#3 ∨ k = 2#3 ∨ k = 3#3 ∨ k = 4#3 ∨ k = 5#3 ∨ k = 6#3 ∨ k = 7#3 := by
    decide
  rcases hrow cmd with rfl | rfl | rfl | rfl | rfl | rfl | rfl | rfl <;>
    simp [decodeWr0, hcmd, Instr.wellFormed, encode, wr0Word, hptr, hfields]

/-- The row of a port read names the port it was decoded from. -/
theorem decodeIn_readsPort {v : DecodeView} (hcfg : configValid v.cfg = true) (p : Byte) :
    ReadsPort v p (decodeIn v p) := by
  unfold ReadsPort decodeIn
  split
  next hnone => exact ⟨by simp [Instr.wellFormed, DecodeView.unmapped, hnone], _, rfl, fun _ => rfl⟩
  next hbank =>
    have hport : PortOf v.cfg p _ .bank := portOf_of_lookupPort hbank
    cases hs : v.cfg.scheme <;> exact ⟨by simp [Instr.wellFormed, hs], _, rfl, fun _ => hport⟩
  next hwindow =>
    obtain ⟨hs, hport⟩ := portOf_of_lookupPort hwindow
    exact ⟨by simp [Instr.wellFormed, hs], _, rfl, fun _ => hport⟩
  next o hsio =>
    obtain ⟨ho, hport⟩ := portOf_of_lookupPort hsio
    split
    next hdata => exact ⟨rfl, _, rfl, fun _ => (sioDataPort_sioChannel v.cfg ho hdata).trans hport⟩
    next hctrl => exact ⟨rfl, _, rfl, fun _ => (sioCtrlPort_sioChannel v.cfg ho hctrl).trans hport⟩
  next i o huart =>
    obtain ⟨hi, ho, hport⟩ := portOf_of_lookupPort huart
    obtain ⟨hwf, hword⟩ := decodeUartIn_inv (v := v) (decide_eq_true hi) ho
    exact ⟨hwf, _, hword, fun _ => hport⟩
  next o hdisk =>
    obtain ⟨ho, -⟩ := portOf_of_lookupPort hdisk
    obtain ⟨hwf, q, hword⟩ := decodeDiskIn_inv hcfg ho
    exact ⟨hwf, q, hword, fun hnot => absurd hdisk (hnot o)⟩
  next htrace => exact ⟨rfl, _, rfl, fun _ => portOf_of_lookupPort htrace⟩

/-- The row of a port write names the port and the byte it was decoded from. -/
theorem decodeOut_writesPort {v : DecodeView} (hcfg : configValid v.cfg = true) (p d : Byte) :
    WritesPort v p d (decodeOut v p d) := by
  unfold WritesPort decodeOut
  split
  next hnone => exact ⟨by simp [Instr.wellFormed, DecodeView.unmapped, hnone], _, rfl, fun _ => rfl⟩
  next hbank =>
    have hport : PortOf v.cfg p _ .bank := portOf_of_lookupPort hbank
    cases hs : v.cfg.scheme <;> exact ⟨by simp [Instr.wellFormed, hs], _, rfl, fun _ => hport⟩
  next hwindow =>
    obtain ⟨hs, hport⟩ := portOf_of_lookupPort hwindow
    exact ⟨by simp [Instr.wellFormed, hs], _, rfl, fun _ => hport⟩
  next o hsio =>
    obtain ⟨ho, hport⟩ := portOf_of_lookupPort hsio
    split
    next hdata => exact ⟨rfl, _, rfl, fun _ => (sioDataPort_sioChannel v.cfg ho hdata).trans hport⟩
    next hctrl =>
      have hctrlPort := (sioCtrlPort_sioChannel v.cfg ho hctrl).trans hport
      split
      next hptr =>
        obtain ⟨hwf, hword⟩ := decodeWr0_inv hptr d
        exact ⟨hwf, _, hword, fun _ => hctrlPort⟩
      next hptr => exact ⟨by simpa [Instr.wellFormed] using hptr, _, rfl, fun _ => hctrlPort⟩
  next i o huart =>
    obtain ⟨hi, ho, hport⟩ := portOf_of_lookupPort huart
    obtain ⟨hwf, hword⟩ := decodeUartOut_inv (v := v) (decide_eq_true hi) ho d
    exact ⟨hwf, _, hword, fun _ => hport⟩
  next o hdisk =>
    obtain ⟨ho, -⟩ := portOf_of_lookupPort hdisk
    obtain ⟨hwf, q, hword⟩ := decodeDiskOut_inv hcfg ho d
    exact ⟨hwf, q, hword, fun hnot => absurd hdisk (hnot o)⟩
  next htrace => exact ⟨rfl, _, rfl, fun _ => portOf_of_lookupPort htrace⟩

/-! The memory rows of a CPU address: both windows at once. -/

section
variable (v : DecodeView) (a : Addr) (d : Byte)

theorem mrdOf_word : (mrdOf a).wellFormed v = true ∧ encode v.cfg (mrdOf a) = packWord 0#3 a 0#8 := by
  have hsplit := windowAddr_split a
  cases hu : addrUpper a <;> simp_all [mrdOf, Instr.wellFormed, encode]

theorem mfetchOf_word : (mfetchOf a).wellFormed v = true ∧ encode v.cfg (mfetchOf a) = packWord 1#3 a 0#8 := by
  have hsplit := windowAddr_split a
  cases hu : addrUpper a <;> simp_all [mfetchOf, Instr.wellFormed, encode]

theorem mwrOf_word : (mwrOf a d).wellFormed v = true ∧ encode v.cfg (mwrOf a d) = packWord 2#3 a d := by
  have hsplit := windowAddr_split a
  cases hu : addrUpper a <;> simp_all [mwrOf, Instr.wellFormed, encode]

end

/-! The decoder backwards. -/

theorem readWord_inv {d : Byte} {i j : Instr} (h : readWord d i = .ok j) : d = 0#8 ∧ j = i := by
  unfold readWord at h
  split at h
  · cases h
    exact ⟨‹_›, rfl⟩
  · cases h

/-- An event row's word is the event word of its code. -/
theorem decodeEvent_inv {a : Addr} {d : Byte} {i : Instr} (h : decodeEvent a d = .ok i) (v : DecodeView) :
    d = 0#8 ∧ i.wellFormed v = true ∧ encode v.cfg i = eventWord a := by
  unfold decodeEvent at h
  split at h
  next => cases h
  next hd =>
    refine ⟨by simpa using hd, ?_⟩
    split at h <;> cases h <;> exact ⟨rfl, rfl⟩

/-- What decodes is a memory operation or an event with that very word, a port read or a port write. -/
theorem decode_inv {v : DecodeView} {t : TWord} {i : Instr} (h : decode v t = .ok i) :
    (wordKind t ≠ 4#3 ∧ wordKind t ≠ 5#3 ∧ i.wellFormed v = true ∧ encode v.cfg i = t) ∨
    (wordKind t = 4#3 ∧ wordData t = 0#8 ∧ i = decodeIn v (addrPort (wordAddr t))) ∨
    (wordKind t = 5#3 ∧ i = decodeOut v (addrPort (wordAddr t)) (wordData t)) := by
  have hfields := packWord_fields t
  unfold decode at h
  dsimp only at h
  split at h
  case h_1 hk =>
    obtain ⟨hd, rfl⟩ := readWord_inv h
    rw [hk, hd, ← (mrdOf_word v _).2] at hfields
    exact .inl ⟨by simp [hk], by simp [hk], (mrdOf_word v _).1, hfields⟩
  case h_2 hk =>
    obtain ⟨hd, rfl⟩ := readWord_inv h
    rw [hk, hd, ← (mfetchOf_word v _).2] at hfields
    exact .inl ⟨by simp [hk], by simp [hk], (mfetchOf_word v _).1, hfields⟩
  case h_3 hk =>
    cases h
    rw [hk, ← (mwrOf_word v _ _).2] at hfields
    exact .inl ⟨by simp [hk], by simp [hk], (mwrOf_word v _ _).1, hfields⟩
  case h_4 | h_8 => cases h
  case h_5 hk =>
    obtain ⟨hd, rfl⟩ := readWord_inv h
    exact .inr (.inl ⟨hk, hd, rfl⟩)
  case h_6 hk =>
    cases h
    exact .inr (.inr ⟨hk, rfl⟩)
  case h_7 hk =>
    obtain ⟨hd, hwf, hword⟩ := decodeEvent_inv h v
    refine .inl ⟨by simp [hk], by simp [hk], hwf, ?_⟩
    rw [hword, eventWord, ← hk, ← hd, hfields]

/-- Settles O53: a memory operation or event has the decoded word itself; a port access has its kind and data, and names
its port. -/
theorem decodedOperationEncodesTheSameFields : Obligations.DecodedOperationEncodesTheSameFields := by
  intro v t i hcfg hdec
  rcases decode_inv hdec with ⟨hnotIn, hnotOut, hwf, hword⟩ | ⟨hk, hd, rfl⟩ | ⟨hk, rfl⟩
  · rw [hword]
    exact ⟨hwf, rfl, rfl, fun _ _ => rfl, fun _ _ => rfl⟩
  · obtain ⟨hwf, q, hword, hport⟩ := decodeIn_readsPort hcfg (addrPort (wordAddr t))
    refine ⟨hwf, by simp [hword, inWord, hk], by simp [hword, inWord, hd], fun hnotIn => absurd hk hnotIn,
      fun _ hnot => ?_⟩
    rw [hword, hport hnot, inWord, wordAddr_packWord, addrPort_ofNat_toNat]
  · obtain ⟨hwf, q, hword, hport⟩ := decodeOut_writesPort hcfg (addrPort (wordAddr t)) (wordData t)
    refine ⟨hwf, by simp [hword, outWord, hk], by simp [hword, outWord], fun _ hnotOut => absurd hk hnotOut,
      fun _ hnot => ?_⟩
    rw [hword, hport hnot, outWord, wordAddr_packWord, addrPort_ofNat_toNat]

end Sys2Proof
end

section
/-! Steps (00_scope.md R8, R14): one equation per form of the next input, and the inversion of a step that answers. -/

namespace Sys2Proof.Machine

section
variable {s : State} (hcfg : configValid s.cfg = true)
include hcfg

theorem step_of_noInput (hin : s.inbox = []) : step s = .next s := by
  simp only [step, hcfg, hin, if_true]

theorem step_of_word {w : TWord} {rest : List Input} (hin : s.inbox = .word w :: rest) :
    step s = runWord w { s with inbox := rest } := by
  simp only [step, hcfg, hin, if_true]

theorem step_of_host {a : HostAction} {rest : List Input} (hin : s.inbox = .host a :: rest) :
    step s = .next (hostAct a { s with inbox := rest }) := by
  simp only [step, hcfg, hin, if_true]

/-- A step on a word that decodes runs the operation, with the word taken and the byte before gone from the bus. -/
theorem step_of_decoded {w : TWord} {rest : List Input} {i : Instr} (hin : s.inbox = .word w :: rest)
    (hdec : decode s.view w = .ok i) : step s = exec i { s with inbox := rest, result := none } := by
  have hview : ({ s with inbox := rest } : State).view = s.view := rfl
  simp only [step_of_word hcfg hin, runWord, hview, hdec]

theorem step_of_reserved {w : TWord} {rest : List Input} {r : Reserved} (hin : s.inbox = .word w :: rest)
    (hdec : decode s.view w = .error r) : step s = .refused (.reservedWord r) := by
  have hview : ({ s with inbox := rest } : State).view = s.view := rfl
  simp only [step_of_word hcfg hin, runWord, hview, hdec]

end

/-- A step that answers a next state had no input, ran a decoded operation, or took a host action. -/
theorem step_inv {s t : State} (h : step s = .next t) :
    configValid s.cfg = true ∧
      (t = s ∨
        (∃ w rest i, s.inbox = .word w :: rest ∧ decode s.view w = .ok i ∧
          exec i { s with inbox := rest, result := none } = .next t) ∨
        ∃ a rest, t = hostAct a { s with inbox := rest }) := by
  cases hcfg : configValid s.cfg with
  | false => simp [step, hcfg] at h
  | true =>
    refine ⟨rfl, ?_⟩
    match hin : s.inbox with
    | [] =>
      rw [step_of_noInput hcfg hin] at h
      cases h
      exact .inl rfl
    | .word w :: rest =>
      cases hdec : decode s.view w with
      | error r =>
        rw [step_of_reserved hcfg hin hdec] at h
        cases h
      | ok i =>
        rw [step_of_decoded hcfg hin hdec] at h
        exact .inr (.inl ⟨w, rest, i, rfl, hdec, h⟩)
    | .host a :: rest =>
      rw [step_of_host hcfg hin] at h
      cases h
      exact .inr (.inr ⟨a, rest, rfl⟩)

/-- Settles O56, from the equation of a step on a word that decodes and on one that does not. -/
theorem stepRunsTheDecodedOperation : Obligations.StepRunsTheDecodedOperation := by
  intro s t rest hcfg hin
  exact ⟨fun i => step_of_decoded hcfg hin, fun r => step_of_reserved hcfg hin⟩

/-- Settles O57, from the equation of a step without input and the frame of a host action. -/
theorem onlyAgentsMoveTheMachine : Obligations.OnlyAgentsMoveTheMachine := by
  intro s hcfg
  refine ⟨step_of_noInput hcfg, fun a rest hin => ?_⟩
  exact ⟨_, step_of_host hcfg hin, hostAct_uarts a _, hostAct_frame a _⟩

end Sys2Proof.Machine
end

section
/-! The invariant of the machine (42_serial_fifo.md R198, 43_uart.md R285, 10_state.md R47, R48). A change of the fields it
does not speak of keeps it, and for each of the others there is one rule for what may be written to it. Every operation
is then a use of these rules. -/

namespace Sys2Proof.Machine

/-! The rules of the invariant, one per field it speaks of. -/

section
variable {s : State} (h : Inv s)
include h

/-- The fields the invariant does not mention may change freely. -/
theorem Inv.frame (bsel rb win : Byte) (sioAsserted : Bool) (sioVec : Byte) (sniff : Sniff) (changed : Bool)
    (traceMask : Byte) (lineA lineB : HostLine) (dev : BlockDevice) (inbox : List Input) (result : Option Byte)
    (events : List Event) (draws : Nat) :
    Inv { s with
      bsel := bsel, rb := rb, win := win, sioAsserted := sioAsserted, sioVec := sioVec, sniff := sniff
      changed := changed, traceMask := traceMask, lineA := lineA, lineB := lineB, dev := dev, inbox := inbox
      result := result, events := events, draws := draws } :=
  ⟨h.config, h.flat, h.rom, h.ram, h.uartCount, h.sioA, h.sioB, h.uarts, h.strobe, h.live⟩

theorem Inv.chan (c : Channel) : (s.chan c).good = true := by
  cases c
  · exact h.sioA
  · exact h.sioB

theorem Inv.setChan (c : Channel) {ch : SioChannel} (hch : ch.good = true) : Inv (s.setChan c ch) := by
  cases c
  · exact ⟨h.config, h.flat, h.rom, h.ram, h.uartCount, hch, h.sioB, h.uarts, h.strobe, h.live⟩
  · exact ⟨h.config, h.flat, h.rom, h.ram, h.uartCount, h.sioA, hch, h.uarts, h.strobe, h.live⟩

theorem Inv.setUarts {us : List UartUnit} (hcount : us.length = s.uarts.length)
    (hgood : ∀ n ∈ us, n.uart.good = true) : Inv { s with uarts := us } :=
  ⟨h.config, h.flat, h.rom, h.ram, hcount.trans h.uartCount, h.sioA, h.sioB, hgood, h.strobe, h.live⟩

theorem Inv.setUart (i : Nat) {n : UartUnit} (hn : n.uart.good = true) : Inv (s.setUart i n) := by
  refine h.setUarts List.length_set fun m hm => ?_
  rcases List.mem_or_eq_of_mem_set hm with hm | rfl
  · exact h.uarts m hm
  · exact hn

theorem Inv.forUarts {f : UartUnit → UartUnit × Bool} (hf : ∀ n, n.uart.good = true → (f n).1.uart.good = true) :
    Inv (forUarts f s) := by
  refine (h.setUarts (us := s.uarts.map fun n => (f n).1) (List.length_map _) fun m hm => ?_).frame ..
  obtain ⟨n, hn, rfl⟩ := List.mem_map.1 hm
  exact hf n (h.uarts n hn)

theorem Inv.setDb {db : DiskBridge} (hdb : db.prev = db.ctl) : Inv { s with db := db } :=
  ⟨h.config, h.flat, h.rom, h.ram, h.uartCount, h.sioA, h.sioB, h.uarts, hdb, h.live⟩

theorem Inv.release : Inv { s with live := none } :=
  ⟨h.config, h.flat, h.rom, h.ram, h.uartCount, h.sioA, h.sioB, h.uarts, h.strobe, rfl⟩

theorem Inv.own {src : Source} (hsrc : src ∈ s.cfg.arbOrder) : Inv { s with live := some src } :=
  ⟨h.config, h.flat, h.rom, h.ram, h.uartCount, h.sioA, h.sioB, h.uarts, h.strobe, by simpa [liveKnown] using hsrc⟩

theorem Inv.writeLoc {l : Loc} (hl : l.inRange s.cfg = true) (d : Byte) : Inv (s.writeLoc l d) := by
  rw [State.writeLoc_frame]
  exact ⟨h.config, s.writeLoc_wf l d .flat hl h.flat, s.writeLoc_wf l d .rom hl h.rom, s.writeLoc_wf l d .ram hl h.ram,
    h.uartCount, h.sioA, h.sioB, h.uarts, h.strobe, h.live⟩

end

/-! The serial channels (42_serial_fifo.md R198). -/

section
variable {ch : SioChannel}

theorem SioChannel.good_iff : ch.good = true ↔
    ch.q.length ≤ Config.sioQueueDepth ∧ (ch.pendRxa = true → ch.q ≠ []) ∧ (ch.pendErr = true → ch.ovr = true) := by
  unfold SioChannel.good
  cases ch.pendRxa <;> cases ch.pendErr <;> simp [and_assoc]

theorem SioChannel.good_reset : SioChannel.reset.good = true := rfl

/-- The channel's goodness is about its queue and its three condition bits. -/
theorem SioChannel.good_congr (hch : ch.good = true) (wr : Vector Byte 8) (ptr : BitVec 3) (arm : Bool) :
    ({ ch with wr := wr, ptr := ptr, arm := arm } : SioChannel).good = true := hch

theorem SioChannel.good_errorReset (hch : ch.good = true) (wr : Vector Byte 8) (ptr : BitVec 3) :
    ({ ch with wr := wr, ptr := ptr, ovr := false, pendErr := false } : SioChannel).good = true := by
  rw [SioChannel.good_iff] at hch ⊢
  exact ⟨hch.1, hch.2.1, nofun⟩

theorem SioChannel.good_popped {b : Byte} {r : List Byte} (hch : ch.good = true) (hq : ch.q = b :: r) :
    (ch.popped r).good = true := by
  rw [SioChannel.good_iff] at hch ⊢
  obtain ⟨hlen, -, herr⟩ := hch
  rw [hq, List.length_cons] at hlen
  exact ⟨Nat.le_of_succ_le hlen, by simp [SioChannel.popped], herr⟩

end

/-- A received byte keeps its channel good: a full queue stays full, and one with room grows by one. -/
theorem chan_sioPush_good {c : Channel} {s : State} (b : Byte) (hch : (s.chan c).good = true) :
    ((sioPush c b s).chan c).good = true := by
  cases hon : (s.chan c).rxOn with
  | false => rwa [sioPush_of_rxOff b hon]
  | true =>
    rw [SioChannel.good_iff] at hch
    obtain ⟨hlen, -, herr⟩ := hch
    by_cases hfull : (s.chan c).q.length = Config.sioQueueDepth
    · rw [chan_sioPush_of_full b hon hfull, SioChannel.good_iff]
      have hlast : (replaceLast (s.chan c).q b).length = Config.sioQueueDepth := by simp [replaceLast, hfull]
      refine ⟨hlast.le, fun _ => List.ne_nil_of_length_pos ?_, fun _ => rfl⟩
      exact hlast.symm ▸ (by decide)
    · rw [chan_sioPush_of_room b hon hfull, SioChannel.good_iff]
      have hroom : (s.chan c).q.length < Config.sioQueueDepth := lt_of_le_of_ne hlen hfull
      exact ⟨by simpa using hroom, fun _ => by simp, herr⟩

/-! The UARTs (43_uart.md R285). -/

section
variable {u : Uart}

theorem Uart.good_iff : u.good = true ↔
    (u.pendRx = true → u.lsr.getLsbD 0 = true ∧ u.ier.getLsbD 0 = true) ∧
    (u.pendThre = true → u.lsr.getLsbD 5 = true ∧ u.ier.getLsbD 1 = true) ∧
    (u.pendMs = true → u.msr &&& 0x0F ≠ 0#8 ∧ u.ier.getLsbD 3 = true) ∧ u.ier &&& 0xF0 = 0#8 := by
  unfold Uart.good
  cases u.pendRx <;> cases u.pendThre <;> cases u.pendMs <;> simp [and_assoc]

theorem Uart.good_reset (msr : Byte) : (Uart.reset msr).good = true := by
  simp [Uart.good_iff, Uart.reset]

theorem Uart.good_afterRbr (hu : u.good = true) :
    ({ u with lsr := u.lsr &&& ~~~0x01, pendRx := false } : Uart).good = true := by
  rw [Uart.good_iff] at hu ⊢
  obtain ⟨-, hthre, hms, hier⟩ := hu
  exact ⟨nofun, fun hp => by simpa using hthre hp, hms, hier⟩

theorem Uart.good_afterLsr (hu : u.good = true) : ({ u with lsr := u.lsr &&& ~~~0x1E } : Uart).good = true := by
  rw [Uart.good_iff] at hu ⊢
  obtain ⟨hrx, hthre, hms, hier⟩ := hu
  exact ⟨fun hp => by simpa using hrx hp, fun hp => by simpa using hthre hp, hms, hier⟩

theorem Uart.good_afterMsr (hu : u.good = true) :
    ({ u with msr := u.msr &&& 0xF0, pendMs := false } : Uart).good = true := by
  rw [Uart.good_iff] at hu ⊢
  obtain ⟨hrx, hthre, -, hier⟩ := hu
  exact ⟨hrx, hthre, nofun, hier⟩

theorem Uart.good_threReleased (hu : u.good = true) : ({ u with pendThre := false } : Uart).good = true := by
  rw [Uart.good_iff] at hu ⊢
  obtain ⟨hrx, -, hms, hier⟩ := hu
  exact ⟨hrx, nofun, hms, hier⟩

theorem Uart.good_afterIir (hu : u.good = true) :
    (if u.iir = 0x02 then { u with pendThre := false } else u : Uart).good = true := by
  split
  · exact Uart.good_threReleased hu
  · exact hu

theorem Uart.good_wroteIer (hu : u.good = true) (d : Byte) : (u.wroteIer d).good = true := by
  have hlow : (d &&& 0x0F) &&& 0xF0 = 0#8 := by simp [BitVec.and_assoc]
  rw [Uart.good_iff] at hu ⊢
  obtain ⟨hrx, hthre, hms, -⟩ := hu
  simp only [Uart.wroteIer, Bool.and_eq_true]
  exact ⟨fun hp => ⟨(hrx hp.1).1, by simpa using hp.2⟩, fun hp => ⟨(hthre hp.1).1, by simpa using hp.2⟩,
    fun hp => ⟨(hms hp.1).1, by simpa using hp.2⟩, hlow⟩

end

/-- A pulse sets DDCD, so that a pending MS has a set delta bit. -/
theorem uartPulse_good {n : UartUnit} (hn : n.uart.good = true) : (uartPulse n).1.uart.good = true := by
  have hdelta : ∀ m : Byte, ((m ^^^ 0x80) ||| 0x08) &&& 0x0F ≠ 0#8 := by decide
  rw [uartPulse_eq]
  rw [Uart.good_iff] at hn ⊢
  obtain ⟨hrx, hthre, hms, hier⟩ := hn
  refine ⟨hrx, hthre, fun hp => ⟨hdelta _, ?_⟩, hier⟩
  rcases Bool.or_eq_true_iff.1 hp with hpend | hon
  · exact (hms hpend).2
  · exact hon

/-- Loading the holding register keeps the registers good: only `RBR` changes and `LSR[0]` is set. -/
theorem uartLoad_good {n : UartUnit} (hn : n.uart.good = true) : (uartLoad n).uart.good = true := by
  unfold uartLoad
  split
  · rw [Uart.good_iff] at hn ⊢
    obtain ⟨hrx, hthre, hms, hier⟩ := hn
    exact ⟨fun hp => ⟨by simp, (hrx hp).2⟩, fun hp => by simpa using hthre hp, hms, hier⟩
  · exact hn

/-- A tick raises RX only while data is ready and THRE only while the output is ready, each when enabled. -/
theorem uartTick_good {n : UartUnit} (hn : n.uart.good = true) : (uartTick n).1.uart.good = true := by
  have hload := uartLoad_good hn
  rw [uartTick_eq]
  dsimp only
  rw [Uart.good_iff] at hload ⊢
  obtain ⟨hrx, hthre, hms, hier⟩ := hload
  refine ⟨fun hp => ?_, fun hp => ?_, hms, hier⟩
  · have hready : (uartLoad n).uart.lsr.getLsbD 0 = true ∧ (uartLoad n).uart.ier.getLsbD 0 = true := by
      rcases Bool.or_eq_true_iff.1 hp with hpend | hraise
      · exact hrx hpend
      · exact Bool.and_eq_true_iff.1 hraise
    refine ⟨?_, hready.2⟩
    dsimp only
    split <;> simpa using hready.1
  · obtain ⟨hready, hsource⟩ := Bool.and_eq_true_iff.1 hp
    refine ⟨by simp [hready], ?_⟩
    rcases Bool.or_eq_true_iff.1 hsource with hpend | hon
    · exact (hthre hpend).2
    · exact hon

/-! The operations. -/

section
variable {s : State} (h : Inv s)
include h

theorem Inv.poll : Inv (poll s) := by
  rcases poll_cases s with ⟨-, heq⟩ | ⟨src, v, -, hfirst, heq⟩ <;> rw [heq]
  · exact h.frame ..
  · exact (h.own (firstOffer_mem hfirst).1).frame ..

theorem Inv.sioReti : Inv (sioReti s) := by
  rw [sioReti_frame]
  exact h.frame ..

theorem Inv.onReti : Inv (onReti s) := by
  unfold Machine.onReti
  dsimp only
  split
  · exact h.sioReti.release.poll
  · exact h.release.poll

theorem Inv.sniffStep (b : Byte) : Inv (sniffStep b s) := by
  rcases sniffStep_cases b s with ⟨q, heq⟩ | ⟨-, -, heq⟩ <;> rw [heq]
  · exact h.frame ..
  · exact (show Inv ({ s with sniff := .idle }.emit .reti) from h.frame ..).onReti

theorem Inv.sioPush (c : Channel) (b : Byte) : Inv (sioPush c b s) := by
  rw [sioPush_frame]
  exact (h.setChan c (chan_sioPush_good b (h.chan c))).frame ..

theorem Inv.setSioLine (c : Channel) (l : HostLine) : Inv (s.setSioLine c l) := by
  cases c
  · exact h.frame ..
  · exact h.frame ..

theorem Inv.sioTickChan (c : Channel) : Inv (sioTickChan c s) := by
  unfold Machine.sioTickChan
  split
  · exact (h.setSioLine c _).sioPush c _
  · exact h

theorem Inv.sioPop (c : Channel) : Inv (sioPop c s) := by
  rcases sioPop_cases c s with ⟨-, heq⟩ | ⟨b, r, hq, heq⟩ <;> rw [heq]
  · exact h.frame ..
  · exact (h.setChan c (SioChannel.good_popped (h.chan c) hq)).frame ..

theorem Inv.controlWrite (d : Byte) : Inv (controlWrite d s) := by
  rw [controlWrite_frame]
  exact (h.setDb (db := { s.db with dlo := _, dhi := _, ctl := d, prev := d }) rfl).frame ..

theorem Inv.resetRegisters : Inv (resetRegisters s) := by
  refine ⟨h.config, h.flat, h.rom, h.ram, ?_, SioChannel.good_reset, SioChannel.good_reset, fun n hn => ?_, rfl, rfl⟩
  · exact (List.length_map _).trans h.uartCount
  · obtain ⟨m, -, rfl⟩ := List.mem_map.1 hn
    exact Uart.good_reset _

/-- A host action leaves the registers of every UART alone, and with them the invariant. -/
theorem Inv.hostAct (a : HostAction) : Inv (hostAct a s) := by
  have huarts := hostAct_uarts a s
  rw [hostAct_frame]
  have hcount : (Machine.hostAct a s).uarts.length = s.uarts.length := by simpa using congrArg List.length huarts
  refine (h.setUarts hcount fun n hn => ?_).frame ..
  have hmem : n.uart ∈ s.uarts.map UartUnit.uart := huarts ▸ List.mem_map_of_mem hn
  obtain ⟨m, hm, heq⟩ := List.mem_map.1 hmem
  exact heq ▸ h.uarts m hm

end

/-! The outcomes that meet the invariant. -/

/-- Where the outcome is a next state, it meets the invariant. -/
def MeetsInv (o : Host.Outcome State Fault Refusal) : Prop := ∀ t, o = .next t → Inv t

theorem MeetsInv.next {t : State} (h : Inv t) : MeetsInv (.next t) := by
  rintro _ ⟨⟩
  exact h

section
variable {s : State} (h : Inv s)
include h

theorem readAt_meetsInv (l : Loc) : MeetsInv (readAt l s) := by
  intro t ht
  obtain ⟨-, rfl⟩ := readAt_inv ht
  exact h.frame ..

theorem fetchAt_meetsInv (l : Loc) : MeetsInv (fetchAt l s) := by
  intro t ht
  obtain ⟨-, rfl⟩ := fetchAt_inv ht
  exact (show Inv (s.ret (s.readLoc l)) from h.frame ..).sniffStep _

theorem writeAt_meetsInv (l : Loc) (d : Byte) : MeetsInv (writeAt l d s) := by
  intro t ht
  obtain ⟨hl, ⟨-, rfl⟩ | ⟨-, rfl⟩⟩ := writeAt_inv ht
  · exact h
  · exact h.writeLoc hl d

/-- A WR0 write whose command keeps the invariant keeps it. -/
theorem wr0Write_meetsInv (c : Channel) (crc : BitVec 2) (cmd ptr : BitVec 3) {act : State → State}
    (hact : ∀ u, Inv u → Inv (act u)) : MeetsInv (wr0Write c crc cmd ptr act s) := by
  have hstore : Inv (storeWr0 c (wr0Byte crc cmd ptr) s) := h.setChan c (SioChannel.good_congr (h.chan c) ..)
  have hdone := hact _ hstore
  exact .next (hdone.setChan c (SioChannel.good_congr (hdone.chan c) ..))

theorem execInSioCtrl_meetsInv (c : Channel) : MeetsInv (execInSioCtrl c s) := by
  have hptr : Inv (setPtr c 0#3 s) := h.setChan c (SioChannel.good_congr (h.chan c) ..)
  unfold execInSioCtrl
  split
  · split
    · rintro _ ⟨⟩
    · exact .next (hptr.frame ..)
  all_goals exact .next (hptr.frame ..)

theorem uartIn_meetsInv (i : Nat) (value : Uart → Byte) {after : Uart → Uart} (touch : Uart → Bool)
    (hafter : ∀ u, u.good = true → (after u).good = true) : MeetsInv (uartIn i s value after touch) := by
  intro t ht
  obtain ⟨n, hn, rfl⟩ := uartIn_inv ht
  exact (h.setUart i (n := { n with uart := after n.uart })
    (hafter _ (h.uarts n (List.mem_of_getElem? hn)))).frame ..

theorem uartOut_meetsInv (i : Nat) {after : Uart → Uart} (touch : Bool)
    (hafter : ∀ u, u.good = true → (after u).good = true) : MeetsInv (uartOut i s after touch) := by
  intro t ht
  obtain ⟨n, hn, rfl⟩ := uartOut_inv ht
  exact (h.setUart i (n := { n with uart := after n.uart })
    (hafter _ (h.uarts n (List.mem_of_getElem? hn)))).frame ..

theorem execOutUartThr_meetsInv (i : Nat) (d : Byte) : MeetsInv (execOutUartThr i d s) := by
  unfold execOutUartThr
  split
  · rintro _ ⟨⟩
  next n hn =>
    exact .next ((h.setUart i (n := { uart := { n.uart with pendThre := false }, line := n.line.send d })
      (Uart.good_threReleased (h.uarts n (List.mem_of_getElem? hn)))).frame ..)

theorem execEvtTick_meetsInv : MeetsInv (execEvtTick s) := by
  unfold execEvtTick
  split
  · rintro _ ⟨⟩
  · exact .next (((h.sioTickChan .a).sioTickChan .b).forUarts fun _ => uartTick_good)

theorem execEvtPulse_meetsInv : MeetsInv (execEvtPulse s) := by
  unfold execEvtPulse
  split
  · exact .next (h.forUarts fun _ => uartPulse_good)
  · exact .next h

theorem execEvtCpuReset_meetsInv : MeetsInv (execEvtCpuReset s) := by
  unfold execEvtCpuReset
  dsimp only
  split
  all_goals exact .next (h.frame ..)

/-- Every operation keeps the invariant. -/
theorem exec_meetsInv (i : Instr) : MeetsInv (exec i s) := by
  cases i with
  | mrdLo | mrdHi => exact readAt_meetsInv h _
  | mfetchLo | mfetchHi => exact fetchAt_meetsInv h _
  | mwrLo | mwrHi => exact writeAt_meetsInv h _ _
  | outBsel | outRb | outWin | inBsel | inRb | inWin | outTrace | inTrace | inUnmapped => exact .next (h.frame ..)
  | outUnmapped => exact .next h
  | inSioData c => exact .next (h.sioPop c)
  | outSioData c d => exact .next ((h.setSioLine c _).frame ..)
  | inSioCtrl c => exact execInSioCtrl_meetsInv h c
  | outSioCmd0 | outSioCmd1 | outSioCmd2 | outSioCmd5 => exact wr0Write_meetsInv h _ _ _ _ fun _ hu => hu
  | outSioCmd3 c => exact wr0Write_meetsInv h _ _ _ _ fun _ hu => hu.setChan c SioChannel.good_reset
  | outSioCmd4 c =>
    exact wr0Write_meetsInv h _ _ _ _ fun _ hu => hu.setChan c (SioChannel.good_congr (hu.chan c) ..)
  | outSioCmd6 c =>
    exact wr0Write_meetsInv h _ _ _ _ fun _ hu => hu.setChan c (SioChannel.good_errorReset (hu.chan c) ..)
  | outSioCmd7 c =>
    refine wr0Write_meetsInv h _ _ _ _ fun _ hu => ?_
    cases c
    · exact hu.sioReti
    · exact hu
  | outSioWrn c d => exact .next (h.setChan c (SioChannel.good_congr (h.chan c) ..))
  | inUartDll | inUartIer | inUartDlm | inUartLcr | inUartMcr | inUartScr =>
    unfold exec
    exact uartIn_meetsInv h _ _ _ fun _ hu => hu
  | inUartRbr i => exact uartIn_meetsInv h i Uart.rbr (fun _ => true) fun _ => Uart.good_afterRbr
  | inUartIir i => exact uartIn_meetsInv h i Uart.iir (fun u => u.iir == 0x02) fun _ => Uart.good_afterIir
  | inUartLsr i => exact uartIn_meetsInv h i Uart.lsr (fun _ => false) fun _ => Uart.good_afterLsr
  | inUartMsr i => exact uartIn_meetsInv h i Uart.msr (fun _ => true) fun _ => Uart.good_afterMsr
  | outUartThr i d => exact execOutUartThr_meetsInv h i d
  | outUartIer i d => exact uartOut_meetsInv h _ _ fun _ hu => Uart.good_wroteIer hu d
  | outUartDll | outUartDlm | outUartFcr | outUartLcr | outUartMcr | outUartScr | outUartLsrMsr =>
    unfold exec
    exact uartOut_meetsInv h _ _ fun _ hu => hu
  | inDbDlo | inDbDhi | inDbCtl | inDbDir => exact .next (h.frame ..)
  | outDbDlo d => exact .next (h.setDb (db := { s.db with dlo := d }) h.strobe)
  | outDbDhi d => exact .next (h.setDb (db := { s.db with dhi := d }) h.strobe)
  | outDbDir d => exact .next (h.setDb (db := { s.db with dir := d }) h.strobe)
  | outDbCtl d => exact .next (h.controlWrite d)
  | evtTick => exact execEvtTick_meetsInv h
  | evtPulse => exact execEvtPulse_meetsInv h
  | evtPoll => exact .next h.poll
  | evtReset => exact .next (h.resetRegisters.frame ..)
  | evtCpuReset => exact execEvtCpuReset_meetsInv h

end

/-- Settles O58: a step changes nothing, runs an operation or takes a host action, after taking its input. -/
theorem everyStepKeepsTheInvariant : Obligations.EveryStepKeepsTheInvariant := by
  intro s t h hstep
  obtain ⟨-, rfl | ⟨w, rest, i, -, -, hexec⟩ | ⟨a, rest, rfl⟩⟩ := step_inv hstep
  · exact h
  · have htaken : Inv { s with inbox := rest, result := none } := h.frame ..
    exact exec_meetsInv htaken i t hexec
  · have htaken : Inv { s with inbox := rest } := h.frame ..
    exact htaken.hostAct a

/-- Settles O59, field by field. -/
theorem resetStateMeetsTheInvariant : Obligations.ResetStateMeetsTheInvariant := by
  obtain ⟨hflat, hrom, hram⟩ := reset_storage_wf
  refine ⟨by decide, hflat, hrom, hram, rfl, SioChannel.good_reset, SioChannel.good_reset, ?_, rfl, rfl⟩
  intro n hn
  rw [List.mem_singleton.1 hn]
  exact Uart.good_reset _

end Sys2Proof.Machine
end

section
/-! Completion (60_exceptions.md R410, R412) and the tick (46_events.md R390). What can stop an operation is a location outside its array, a failing
readiness check, or a UART that does not exist; under the invariant, a working host and a well-formed operation none of
the three is met. -/

namespace Sys2Proof.Machine

/-- With a working host, no line of a serial channel fails its readiness check. -/
theorem sioLine_not_broken {s : State} (h : hostHealthy s = true) (c : Channel) : (s.sioLine c).broken = false := by
  simp only [hostHealthy, tickBroken, Bool.not_eq_true', Bool.or_eq_false_iff] at h
  obtain ⟨⟨hA, hB⟩, -⟩ := h
  cases c
  · exact hA
  · exact hB

/-- A UART the decoder sees has its registers, one state per configured UART. -/
theorem Inv.uart_exists {s : State} (h : Inv s) {i : Nat} (hi : s.view.hasUart i = true) : ∃ n, s.uarts[i]? = some n := by
  have hlt : i < s.uarts.length := h.uartCount ▸ of_decide_eq_true hi
  exact ⟨_, List.getElem?_eq_getElem hlt⟩

/-- A control read completes unless the pointer is at 0 and the line's readiness check fails. -/
theorem exec_inSioCtrl_completes {s : State} {c : Channel} (h : (s.sioLine c).broken = false) :
    ∃ t, exec (.inSioCtrl c) s = .next t := by
  change ∃ t, execInSioCtrl c s = .next t
  unfold execInSioCtrl
  rw [h]
  split <;> exact ⟨_, rfl⟩

/-- A tick with a working host completes. -/
theorem exec_evtTick_of_healthy {s : State} (h : hostHealthy s = true) :
    exec .evtTick s = .next (forUarts uartTick (sioTick s)) := by
  have hbroken : tickBroken s = false := by simpa [hostHealthy] using h
  change execEvtTick s = _
  simp [execEvtTick, hbroken]

/-- Settles O60: memory operations land in their arrays, lines are ready to be asked, UARTs exist; the other operations
have one outcome. -/
theorem noOperationHasAnErrorOutcome : Obligations.NoOperationHasAnErrorOutcome := by
  intro s i h hhost hwf
  cases i with
  | mrdLo o => exact ⟨_, readAt_next (lowerLoc_inRange s o)⟩
  | mrdHi o => exact ⟨_, readAt_next (upperLoc_inRange h.config o)⟩
  | mfetchLo o => exact ⟨_, fetchAt_next (lowerLoc_inRange s o)⟩
  | mfetchHi o => exact ⟨_, fetchAt_next (upperLoc_inRange h.config o)⟩
  | mwrLo o d => exact ⟨_, writeAt_next d (lowerLoc_inRange s o)⟩
  | mwrHi o d => exact ⟨_, writeAt_next d (upperLoc_inRange h.config o)⟩
  | inSioCtrl c => exact exec_inSioCtrl_completes (sioLine_not_broken hhost c)
  | inUartRbr | inUartDll | inUartIer | inUartDlm =>
    obtain ⟨n, hn⟩ := h.uart_exists (Bool.and_eq_true_iff.1 hwf).1
    unfold exec
    exact ⟨_, uartIn_next hn _ _ _⟩
  | inUartIir | inUartLcr | inUartMcr | inUartLsr | inUartMsr | inUartScr =>
    obtain ⟨n, hn⟩ := h.uart_exists hwf
    unfold exec
    exact ⟨_, uartIn_next hn _ _ _⟩
  | outUartThr i d =>
    obtain ⟨n, hn⟩ := h.uart_exists (Bool.and_eq_true_iff.1 hwf).1
    exact ⟨_, exec_outUartThr hn d⟩
  | outUartDll | outUartIer | outUartDlm =>
    obtain ⟨n, hn⟩ := h.uart_exists (Bool.and_eq_true_iff.1 hwf).1
    unfold exec
    exact ⟨_, uartOut_next hn _ _⟩
  | outUartFcr | outUartLcr | outUartMcr | outUartScr | outUartLsrMsr =>
    obtain ⟨n, hn⟩ := h.uart_exists hwf
    unfold exec
    exact ⟨_, uartOut_next hn _ _⟩
  | evtTick => exact ⟨_, exec_evtTick_of_healthy hhost⟩
  | _ => exact ⟨_, rfl⟩

/-- Settles O34: a tick by whether the host works, a channel's part by whether its line offers a byte. -/
theorem tickSamplesEveryLineInOrder : Obligations.TickSamplesEveryLineInOrder := by
  refine ⟨fun s => exec_evtTick_of_healthy, fun s hfails => ?fails, fun s c hnone => ?nothing,
    fun s c b r hbound hrx => ?byte, fun _ => rfl⟩
  case fails =>
    have hbroken : tickBroken s = true := by simpa [hostHealthy] using hfails
    change execEvtTick s = _
    simp [execEvtTick, hbroken]
  case nothing =>
    have hready : (s.sioLine c).rxReady = false := by
      rcases hnone with hunbound | hempty
      · simp [HostLine.rxReady, hunbound]
      · simp [HostLine.rxReady, hempty]
    simp [sioTickChan, hready]
  case byte =>
    have hready : (s.sioLine c).rxReady = true := by simp [HostLine.rxReady, hbound, hrx]
    simp [sioTickChan, hready, HostLine.consumed, hrx]

end Sys2Proof.Machine
end

section
/-! The single-owner law (45_interrupt_arbiter.md R353). Injections since the last RETI are a function of the arbiter's
view, so only a poll, a fetch or a reset can change their number; a poll injects from the released state alone, and a RETI
starts the count again before its own poll. -/

namespace Sys2Proof.Machine

/-! The count, one event at a time. -/

@[simp] theorem injectsSinceReti_nil : injectsSinceReti [] = 0 := rfl

/-- A RETI starts the count again, an injection adds one, any other event adds nothing. -/
@[simp] theorem injectsSinceReti_snoc (es : List Event) (e : Event) :
    injectsSinceReti (es ++ [e]) = if e = .reti then 0 else injectsSinceReti es + (Event.isInject e).toNat := by
  unfold injectsSinceReti
  cases e <;> simp [List.countP_cons, Event.isInject]

/-- The count is about the events of the arbiter and the detector. -/
theorem injectsSinceReti_filter (es : List Event) :
    injectsSinceReti (es.filter Event.ofArbiter) = injectsSinceReti es := by
  induction es using List.reverseRecOn with
  | nil => rfl
  | append_singleton es e ih => cases e <;> simp [List.filter_cons, Event.ofArbiter, Event.isInject, ih]

/-! The law as a property of a state. -/

/-- At most one injection since the last RETI, and none while no source is live. -/
def SingleOwner (s : State) : Prop :=
  injectsSinceReti s.events ≤ 1 ∧ (s.live = none → injectsSinceReti s.events = 0)

theorem SingleOwner.of_arbiter {s t : State} (h : SingleOwner s) (hview : t.arbiter = s.arbiter) : SingleOwner t := by
  have hlive : t.live = s.live := congrArg ArbiterView.live hview
  have hemitted : t.events.filter Event.ofArbiter = s.events.filter Event.ofArbiter := congrArg ArbiterView.emitted hview
  have hcount : injectsSinceReti t.events = injectsSinceReti s.events := by
    rw [← injectsSinceReti_filter, hemitted, injectsSinceReti_filter]
  rw [SingleOwner, hcount, hlive]
  exact h

theorem SingleOwner.of_none {s : State} (h : injectsSinceReti s.events = 0) : SingleOwner s :=
  ⟨h.le.trans zero_le_one, fun _ => h⟩

/-- A poll that injects does so from the released state, where the count is 0. -/
theorem SingleOwner.poll {s : State} (h : SingleOwner s) : SingleOwner (poll s) := by
  rcases poll_cases s with ⟨-, heq⟩ | ⟨src, v, hfree, -, heq⟩ <;> rw [heq]
  · exact h
  · have hone : injectsSinceReti (s.events ++ [.inject v]) = 1 := by simp [Event.isInject, h.2 hfree]
    exact ⟨hone.le, nofun⟩

/-- Whatever came before, a return leaves at most the one injection of its own poll. -/
theorem singleOwner_onReti (s : State) : SingleOwner (onReti (s.emit .reti)) := by
  have hnone : injectsSinceReti (s.events ++ [.reti]) = 0 := by simp
  by_cases hsio : (s.emit .reti).live = some .sio
  · rw [onReti_of_sio hsio, sioReti_eq]
    exact (SingleOwner.of_none (by exact hnone)).poll
  · rw [onReti_of_not_sio hsio]
    exact (SingleOwner.of_none (by exact hnone)).poll

theorem SingleOwner.sniffStep {s : State} (h : SingleOwner s) (b : Byte) : SingleOwner (sniffStep b s) := by
  rcases sniffStep_cases b s with ⟨q, heq⟩ | ⟨-, -, heq⟩ <;> rw [heq]
  · exact h
  · exact singleOwner_onReti _

/-- Every operation but the power-on reset keeps the law. -/
theorem SingleOwner.exec {s t : State} {i : Instr} (h : SingleOwner s) (hreset : i ≠ .evtReset)
    (hexec : exec i s = .next t) : SingleOwner t := by
  cases hreach : reachesArbiter i with
  | false => exact h.of_arbiter (exec_keepsArbiter i s hreach t hexec)
  | true =>
    cases i with
    | mfetchLo | mfetchHi =>
      obtain ⟨-, rfl⟩ := fetchAt_inv hexec
      exact (show SingleOwner (s.ret _) from h).sniffStep _
    | evtPoll =>
      cases hexec
      exact h.poll
    | evtReset => exact absurd rfl hreset
    | evtCpuReset =>
      obtain ⟨-, hlive, hevents⟩ := exec_evtCpuReset_inv hexec
      rw [SingleOwner, hlive, hevents]
      simpa [Event.isInject, SingleOwner] using h
    | _ => cases hreach

/-- Only the power-on reset word decodes to a power-on reset. -/
theorem word_of_decode_evtReset {v : DecodeView} {t : TWord} (hcfg : configValid v.cfg = true)
    (h : decode v t = .ok .evtReset) : t = encode v.cfg .evtReset := by
  obtain ⟨-, hkind, -, hword, -⟩ := decodedOperationEncodesTheSameFields v t _ hcfg h
  have hevent : wordKind t = 6#3 := by rw [← hkind, encode, eventWord, wordKind_packWord]
  exact (hword (by simp [hevent]) (by simp [hevent])).symm

/-- Settles O47: a host action and a step without input leave events and live source alone, and a decoded word is no
power-on reset. -/
theorem atMostOneInjectionBetweenReturns : Obligations.AtMostOneInjectionBetweenReturns := by
  intro s t hstep hword hcount hnone
  have h : SingleOwner s := ⟨hcount, hnone⟩
  change SingleOwner t
  obtain ⟨hcfg, rfl | ⟨w, rest, i, hin, hdec, hexec⟩ | ⟨a, rest, rfl⟩⟩ := step_inv hstep
  · exact h
  · have hreset : i ≠ .evtReset := by
      rintro rfl
      refine hword ?_
      rw [State.nextWord, hin, word_of_decode_evtReset hcfg hdec]
      rfl
    exact SingleOwner.exec (s := { s with inbox := rest, result := none }) h hreset hexec
  · rw [hostAct_frame]
    exact h

end Sys2Proof.Machine
end

section
/-! `TRACE_MASK` and `CHANGED` are read by no rule (10_state.md R51, R52). Two states that agree but for the two are kept
in agreement by each operation on the state; so two outcomes from such states are the same stop, or agreeing states. -/

namespace Sys2Proof.Machine

/-! Agreement but for the two marks. -/

/-- The state with another `TRACE_MASK` and `CHANGED`. -/
def State.mark (s : State) (mask : Byte) (changed : Bool) : State := { s with traceMask := mask, changed := changed }

/-- The states differ in `TRACE_MASK` and `CHANGED` at most. -/
def Agree (s t : State) : Prop := ∃ mask changed, t = s.mark mask changed

/-- The outcomes are agreeing states or the same stop. -/
inductive OutcomesAgree : Host.Outcome State Fault Refusal → Host.Outcome State Fault Refusal → Prop where
  | next {s t : State} (h : Agree s t) : OutcomesAgree (.next s) (.next t)
  | fault (f : Fault) : OutcomesAgree (.fault f) (.fault f)
  | refused (r : Refusal) : OutcomesAgree (.refused r) (.refused r)

/-- A choice made alike in both states. -/
theorem Agree.ite {p q : Prop} [Decidable p] [Decidable q] {s t u v : State} (hpq : p ↔ q) (hthen : Agree s t)
    (helse : Agree u v) : Agree (if p then s else u) (if q then t else v) := by
  by_cases hp : p
  · rwa [if_pos hp, if_pos (hpq.1 hp)]
  · rwa [if_neg hp, if_neg (hpq.not.1 hp)]

theorem OutcomesAgree.ite {p q : Prop} [Decidable p] [Decidable q] {o o' r r' : Host.Outcome State Fault Refusal}
    (hpq : p ↔ q) (hthen : OutcomesAgree o o') (helse : OutcomesAgree r r') :
    OutcomesAgree (if p then o else r) (if q then o' else r') := by
  by_cases hp : p
  · rwa [if_pos hp, if_pos (hpq.1 hp)]
  · rwa [if_neg hp, if_neg (hpq.not.1 hp)]

/-! What the rules read of a state does not see the marks. -/

section
variable (s : State) (mask : Byte) (changed : Bool)

@[simp] theorem State.mark_cfg : (s.mark mask changed).cfg = s.cfg := rfl
@[simp] theorem State.mark_sioAsserted : (s.mark mask changed).sioAsserted = s.sioAsserted := rfl
@[simp] theorem State.mark_uarts : (s.mark mask changed).uarts = s.uarts := rfl
@[simp] theorem State.mark_live : (s.mark mask changed).live = s.live := rfl
@[simp] theorem State.mark_dev : (s.mark mask changed).dev = s.dev := rfl
@[simp] theorem State.mark_inbox : (s.mark mask changed).inbox = s.inbox := rfl
@[simp] theorem State.mark_view : (s.mark mask changed).view = s.view := rfl

@[simp] theorem State.mark_chan (c : Channel) : (s.mark mask changed).chan c = s.chan c := by cases c <;> rfl
@[simp] theorem State.mark_sioLine (c : Channel) : (s.mark mask changed).sioLine c = s.sioLine c := by cases c <;> rfl

theorem offer_mark (src : Source) : offer (s.mark mask changed) src = offer s src := by cases src <;> rfl

@[simp] theorem firstOffer_mark (order : List Source) : firstOffer (s.mark mask changed) order = firstOffer s order := by
  simp only [firstOffer_eq_findSome?, offer_mark]

end

/-! Operations on the state keep agreement. -/

section
variable {s t : State} (h : Agree s t)
include h

theorem Agree.setChan (c : Channel) (ch : SioChannel) : Agree (s.setChan c ch) (t.setChan c ch) := by
  obtain ⟨mask, changed, rfl⟩ := h
  cases c <;> exact ⟨_, _, rfl⟩

theorem Agree.setSioLine (c : Channel) (l : HostLine) : Agree (s.setSioLine c l) (t.setSioLine c l) := by
  obtain ⟨mask, changed, rfl⟩ := h
  cases c <;> exact ⟨_, _, rfl⟩

theorem Agree.ret (b : Byte) : Agree (s.ret b) (t.ret b) := by
  obtain ⟨mask, changed, rfl⟩ := h
  exact ⟨_, _, rfl⟩

theorem Agree.emit (e : Event) : Agree (s.emit e) (t.emit e) := by
  obtain ⟨mask, changed, rfl⟩ := h
  exact ⟨_, _, rfl⟩

theorem Agree.retDraw : Agree s.retDraw t.retDraw := by
  obtain ⟨mask, changed, rfl⟩ := h
  exact ⟨_, _, rfl⟩

theorem Agree.writeLoc (l : Loc) (d : Byte) : Agree (s.writeLoc l d) (t.writeLoc l d) := by
  obtain ⟨mask, changed, rfl⟩ := h
  obtain ⟨arr, bank, off⟩ := l
  cases arr <;> exact ⟨_, _, rfl⟩

theorem Agree.setUart (i : Nat) (n : UartUnit) (touch : Bool) :
    Agree ((s.setUart i n).markChanged touch) ((t.setUart i n).markChanged touch) := by
  obtain ⟨mask, changed, rfl⟩ := h
  exact ⟨_, _, rfl⟩

theorem Agree.forUarts (f : UartUnit → UartUnit × Bool) : Agree (forUarts f s) (forUarts f t) := by
  obtain ⟨mask, changed, rfl⟩ := h
  exact ⟨_, _, rfl⟩

theorem Agree.sioRaise (c : Channel) (cond : SioCond) : Agree (sioRaise c cond s) (sioRaise c cond t) := by
  have hset := h.setChan c ((s.chan c).setPend cond)
  obtain ⟨mask, changed, rfl⟩ := h
  unfold Machine.sioRaise
  simp only [State.mark_chan, State.mark_sioAsserted]
  split_ifs
  · obtain ⟨_, _, heq⟩ := hset
    rw [heq]
    exact ⟨_, _, rfl⟩
  · exact hset

theorem Agree.sioPush (c : Channel) (b : Byte) : Agree (sioPush c b s) (sioPush c b t) := by
  have hset := fun ch => h.setChan c ch
  obtain ⟨mask, changed, rfl⟩ := h
  unfold Machine.sioPush
  simp only [State.mark_chan]
  split_ifs
  exacts [⟨_, _, rfl⟩, hset _, (hset _).sioRaise c .err, hset _, (hset _).sioRaise c .rxa, hset _,
    (hset _).sioRaise c .rxa]

theorem Agree.sioTickChan (c : Channel) : Agree (sioTickChan c s) (sioTickChan c t) := by
  have hline := h.setSioLine c (s.sioLine c).consumed
  have hsame := h
  obtain ⟨mask, changed, rfl⟩ := h
  unfold Machine.sioTickChan
  simp only [State.mark_sioLine]
  split_ifs
  · exact hline.sioPush c _
  · exact hsame

theorem Agree.sioPop (c : Channel) : Agree (sioPop c s) (sioPop c t) := by
  have hdraw := h.retDraw
  have hset := fun ch => h.setChan c ch
  obtain ⟨mask, changed, rfl⟩ := h
  unfold Machine.sioPop
  simp only [State.mark_chan]
  cases (s.chan c).q with
  | nil => exact hdraw
  | cons b rest => exact (hset _).ret b

theorem Agree.sioReti : Agree (sioReti s) (sioReti t) := by
  obtain ⟨mask, changed, rfl⟩ := h
  rw [sioReti_eq, sioReti_eq]
  exact ⟨_, _, rfl⟩

theorem Agree.setPtr (c : Channel) (p : BitVec 3) : Agree (setPtr c p s) (setPtr c p t) := by
  have hset := fun ch => h.setChan c ch
  obtain ⟨mask, changed, rfl⟩ := h
  simp only [Machine.setPtr, State.mark_chan]
  exact hset _

theorem Agree.storeWr0 (c : Channel) (d : Byte) : Agree (storeWr0 c d s) (storeWr0 c d t) := by
  have hset := fun ch => h.setChan c ch
  obtain ⟨mask, changed, rfl⟩ := h
  simp only [Machine.storeWr0, State.mark_chan]
  exact hset _

theorem Agree.poll : Agree (poll s) (poll t) := by
  obtain ⟨mask, changed, rfl⟩ := h
  unfold Machine.poll
  simp only [State.mark_live, State.mark_cfg, firstOffer_mark]
  cases s.live with
  | some src => exact ⟨_, _, rfl⟩
  | none => cases firstOffer s s.cfg.arbOrder <;> exact ⟨_, _, rfl⟩

theorem Agree.release : Agree { s with live := none } { t with live := none } := by
  obtain ⟨mask, changed, rfl⟩ := h
  exact ⟨_, _, rfl⟩

theorem Agree.onReti : Agree (onReti s) (onReti t) := by
  have hlive : t.live = s.live := by
    obtain ⟨mask, changed, rfl⟩ := h
    rfl
  unfold Machine.onReti
  rw [hlive]
  dsimp only
  split_ifs
  · exact h.sioReti.release.poll
  · exact h.release.poll

theorem Agree.setSniff (q : Sniff) : Agree { s with sniff := q } { t with sniff := q } := by
  obtain ⟨mask, changed, rfl⟩ := h
  exact ⟨_, _, rfl⟩

theorem Agree.sniffStep (b : Byte) : Agree (sniffStep b s) (sniffStep b t) := by
  have hsniff : t.sniff = s.sniff := by
    obtain ⟨mask, changed, rfl⟩ := h
    rfl
  have hreturn := ((h.setSniff .idle).emit .reti).onReti
  have hmoved := fun q => h.setSniff q
  unfold Machine.sniffStep
  rw [hsniff]
  cases s.sniff with
  | afterEd =>
    dsimp only
    split_ifs
    · exact hreturn
    · exact hmoved _
  | afterCb => exact hmoved _
  | idle | afterIxiy =>
    dsimp only
    split_ifs <;> exact hmoved _

theorem Agree.readTransfer (sel : BitVec 4) : Agree (readTransfer sel s) (readTransfer sel t) := by
  obtain ⟨mask, changed, rfl⟩ := h
  unfold Machine.readTransfer
  refine Agree.ite Iff.rfl ?_ ⟨_, _, rfl⟩
  simp only [State.mark_dev]
  cases s.dev.answers <;> exact ⟨_, _, rfl⟩

theorem Agree.writeTransfer (sel : BitVec 4) : Agree (writeTransfer sel s) (writeTransfer sel t) := by
  obtain ⟨mask, changed, rfl⟩ := h
  exact ⟨_, _, rfl⟩

theorem Agree.controlWrite (d : Byte) : Agree (controlWrite d s) (controlWrite d t) := by
  obtain ⟨mask, changed, rfl⟩ := h
  have hset : Agree { s with db := { s.db with ctl := d, prev := d } }
      { s.mark mask changed with db := { s.db with ctl := d, prev := d } } := ⟨_, _, rfl⟩
  have hreset := Agree.ite (p := rises s.db.prev d s.cfg.dbRstBit = true) Iff.rfl (hset.emit .devReset) hset
  have hwrite := Agree.ite (p := rises s.db.prev d s.cfg.dbWrBit = true) Iff.rfl
    (hreset.writeTransfer (diskSelector s.cfg d)) hreset
  have hread := Agree.ite (p := rises s.db.prev d s.cfg.dbRdBit = true) Iff.rfl
    (hwrite.readTransfer (diskSelector s.cfg d)) hwrite
  exact Agree.ite Iff.rfl hreset hread

theorem Agree.mapLine (l : LineId) (f : HostLine → HostLine) : Agree (s.mapLine l f) (t.mapLine l f) := by
  cases l with
  | sio c =>
    have hset := fun l => h.setSioLine c l
    obtain ⟨mask, changed, rfl⟩ := h
    simp only [State.mapLine, State.mark_sioLine]
    exact hset _
  | uart i =>
    obtain ⟨mask, changed, rfl⟩ := h
    simp only [State.mapLine, State.mark_uarts]
    cases s.uarts[i]? <;> exact ⟨_, _, rfl⟩

theorem Agree.hostAct (a : HostAction) : Agree (hostAct a s) (hostAct a t) := by
  cases a with
  | offer l | ready l | bind l | fail l =>
    unfold Machine.hostAct
    exact h.mapLine l _
  | attach | answer =>
    obtain ⟨mask, changed, rfl⟩ := h
    exact ⟨_, _, rfl⟩

end

/-! Outcomes from agreeing states agree. -/

section
variable (s : State) (mask : Byte) (changed : Bool)

theorem readAt_agree (l : Loc) : OutcomesAgree (readAt l s) (readAt l (s.mark mask changed)) := by
  exact .ite Iff.rfl (.next ⟨_, _, rfl⟩) (.fault _)

theorem fetchAt_agree (l : Loc) : OutcomesAgree (fetchAt l s) (fetchAt l (s.mark mask changed)) := by
  exact .ite Iff.rfl (.next (Agree.sniffStep ⟨_, _, rfl⟩ _)) (.fault _)

theorem writeAt_agree (l : Loc) (d : Byte) : OutcomesAgree (writeAt l d s) (writeAt l d (s.mark mask changed)) := by
  have hsame : Agree s (s.mark mask changed) := ⟨_, _, rfl⟩
  exact .ite Iff.rfl (.next (.ite Iff.rfl hsame (hsame.writeLoc l d))) (.fault _)

theorem wr0Write_agree (c : Channel) (crc : BitVec 2) (cmd ptr : BitVec 3) {act : State → State}
    (hact : ∀ {u v : State}, Agree u v → Agree (act u) (act v)) :
    OutcomesAgree (wr0Write c crc cmd ptr act s) (wr0Write c crc cmd ptr act (s.mark mask changed)) :=
  .next ((hact (Agree.storeWr0 ⟨_, _, rfl⟩ c _)).setPtr c ptr)

theorem execInSioCtrl_agree (c : Channel) :
    OutcomesAgree (execInSioCtrl c s) (execInSioCtrl c (s.mark mask changed)) := by
  have hptr : Agree (setPtr c 0#3 s) (setPtr c 0#3 (s.mark mask changed)) := Agree.setPtr ⟨_, _, rfl⟩ c 0#3
  unfold execInSioCtrl
  simp only [State.mark_chan, State.mark_sioLine]
  split
  case h_1 => exact .ite Iff.rfl (.fault _) (.next (hptr.ret _))
  case h_2 => exact .next (hptr.ret _)
  case h_3 => exact .next (hptr.ret _)
  case h_4 => exact .next hptr.retDraw

theorem uartIn_agree (i : Nat) (value : Uart → Byte) (after : Uart → Uart) (touch : Uart → Bool) :
    OutcomesAgree (uartIn i s value after touch) (uartIn i (s.mark mask changed) value after touch) := by
  simp only [uartIn, State.mark_uarts]
  cases s.uarts[i]?
  · exact .refused _
  · exact .next ((Agree.setUart ⟨_, _, rfl⟩ i _ _).ret _)

theorem uartOut_agree (i : Nat) (after : Uart → Uart) (touch : Bool) :
    OutcomesAgree (uartOut i s after touch) (uartOut i (s.mark mask changed) after touch) := by
  simp only [uartOut, State.mark_uarts]
  cases s.uarts[i]?
  · exact .refused _
  · exact .next (Agree.setUart ⟨_, _, rfl⟩ i _ _)

theorem execOutUartThr_agree (i : Nat) (d : Byte) :
    OutcomesAgree (execOutUartThr i d s) (execOutUartThr i d (s.mark mask changed)) := by
  simp only [execOutUartThr, State.mark_uarts]
  cases s.uarts[i]?
  · exact .refused _
  · exact .next ((Agree.setUart ⟨_, _, rfl⟩ i _ _).emit _)

theorem execEvtTick_agree : OutcomesAgree (execEvtTick s) (execEvtTick (s.mark mask changed)) := by
  have hsame : Agree s (s.mark mask changed) := ⟨_, _, rfl⟩
  exact .ite Iff.rfl (.fault _) (.next (((hsame.sioTickChan .a).sioTickChan .b).forUarts uartTick))

theorem execEvtPulse_agree : OutcomesAgree (execEvtPulse s) (execEvtPulse (s.mark mask changed)) := by
  have hsame : Agree s (s.mark mask changed) := ⟨_, _, rfl⟩
  exact .next (.ite Iff.rfl (hsame.forUarts uartPulse) hsame)

theorem execEvtCpuReset_agree : OutcomesAgree (execEvtCpuReset s) (execEvtCpuReset (s.mark mask changed)) := by
  have hidle : Agree { s with sniff := .idle } { s.mark mask changed with sniff := .idle } := ⟨_, _, rfl⟩
  exact .next ((Agree.ite Iff.rfl ⟨_, _, rfl⟩ hidle).emit .cpuReset)

/-- No operation reads the marks. -/
theorem exec_agree (i : Instr) : OutcomesAgree (exec i s) (exec i (s.mark mask changed)) := by
  have hsame : Agree s (s.mark mask changed) := ⟨_, _, rfl⟩
  cases i with
  | mrdLo | mrdHi => exact readAt_agree s mask changed _
  | mfetchLo | mfetchHi => exact fetchAt_agree s mask changed _
  | mwrLo | mwrHi => exact writeAt_agree s mask changed _ _
  | outBsel | outRb | outWin | inBsel | inRb | inWin | outTrace | inTrace | inUnmapped | outUnmapped =>
    exact .next ⟨_, _, rfl⟩
  | inSioData c => exact .next (hsame.sioPop c)
  | outSioData c d =>
    simp only [exec_outSioData, State.mark_sioLine]
    exact .next ((hsame.setSioLine c _).emit _)
  | inSioCtrl c => exact execInSioCtrl_agree s mask changed c
  | outSioCmd0 | outSioCmd1 | outSioCmd2 | outSioCmd5 => exact wr0Write_agree s mask changed _ _ _ _ fun h => h
  | outSioCmd3 c => exact wr0Write_agree s mask changed _ _ _ _ fun h => h.setChan c _
  | outSioCmd4 c | outSioCmd6 c =>
    refine wr0Write_agree s mask changed _ _ _ _ fun h => ?_
    obtain ⟨m, k, rfl⟩ := h
    cases c <;> exact ⟨_, _, rfl⟩
  | outSioCmd7 c =>
    refine wr0Write_agree s mask changed _ _ _ _ fun h => ?_
    cases c
    · exact h.sioReti
    · exact h
  | outSioWrn c d => cases c <;> exact .next ⟨_, _, rfl⟩
  | inUartRbr | inUartDll | inUartIer | inUartDlm | inUartIir | inUartLcr | inUartMcr | inUartLsr | inUartMsr
  | inUartScr =>
    unfold exec
    exact uartIn_agree s mask changed _ _ _ _
  | outUartThr => exact execOutUartThr_agree s mask changed _ _
  | outUartDll | outUartIer | outUartDlm | outUartFcr | outUartLcr | outUartMcr | outUartScr | outUartLsrMsr =>
    unfold exec
    exact uartOut_agree s mask changed _ _ _
  | inDbDlo | inDbDhi | inDbCtl | inDbDir | outDbDlo | outDbDhi | outDbDir => exact .next ⟨_, _, rfl⟩
  | outDbCtl d => exact .next (hsame.controlWrite d)
  | evtTick => exact execEvtTick_agree s mask changed
  | evtPulse => exact execEvtPulse_agree s mask changed
  | evtPoll => exact .next hsame.poll
  | evtReset => exact .next ⟨_, _, rfl⟩
  | evtCpuReset => exact execEvtCpuReset_agree s mask changed

theorem runWord_agree (w : TWord) : OutcomesAgree (runWord w s) (runWord w (s.mark mask changed)) := by
  simp only [runWord, State.mark_view]
  cases decode s.view w with
  | error r => exact .refused _
  | ok i => exact exec_agree { s with result := none } mask changed i

/-- No step reads the marks. -/
theorem step_agree : OutcomesAgree (step s) (step (s.mark mask changed)) := by
  refine .ite Iff.rfl ?_ (.refused _)
  simp only [State.mark_inbox]
  match s.inbox with
  | [] => exact .next ⟨_, _, rfl⟩
  | .word w :: rest => exact runWord_agree { s with inbox := rest } mask changed w
  | .host a :: rest => exact .next (Agree.hostAct (s := { s with inbox := rest }) ⟨_, _, rfl⟩ a)

end

/-- Settles O13: agreeing outcomes, read off for each form of the first one. -/
theorem traceMaskAndChangedAreReadByNoRule : Obligations.TraceMaskAndChangedAreReadByNoRule := by
  intro s mask changed
  have hagree := step_agree s mask changed
  change (∀ t : State, _ → ∃ m' c', step (s.mark mask changed) = .next (t.mark m' c')) ∧
    (∀ f, _ → step (s.mark mask changed) = _) ∧ (∀ r, _ → step (s.mark mask changed) = _)
  generalize step (s.mark mask changed) = o at hagree ⊢
  refine ⟨fun t ht => ?next, fun f hf => ?fault, fun r hr => ?refused⟩
  case next =>
    rw [ht] at hagree
    cases hagree with
    | next h =>
      obtain ⟨m', c', rfl⟩ := h
      exact ⟨m', c', rfl⟩
  case fault =>
    rw [hf] at hagree
    cases hagree
    rfl
  case refused =>
    rw [hr] at hagree
    cases hagree
    rfl

end Sys2Proof.Machine
end

section
/-! The bank translator's laws over both windows (40_bank_translator.md R132, R137, R140 to R143; 20_memory.md R95): which
array and bank each window shows, and what that makes of range, aliasing, bank-select writes and stored bytes. -/

namespace Sys2Proof.Machine

/-! The two windows of a CPU address. -/

section
variable {s t : State} {a : Addr}

theorem translateAddr_of_upper (h : addrUpper a = true) : translateAddr s a = upperLoc s.cfg (addrOffset a) := if_pos h

theorem translateAddr_of_lower (h : addrUpper a = false) : translateAddr s a = lowerLoc s (addrOffset a) := by
  simp [translateAddr, h]

@[simp] theorem translateAddr_off (s : State) (a : Addr) : (translateAddr s a).off = addrOffset a := by
  unfold translateAddr
  split <;> simp

theorem upperLoc_of_flat {c : Config} (hs : c.scheme = .flat) (o : Offset) : upperLoc c o = ⟨.flat, c.flatCommon, o⟩ := by
  simp only [upperLoc, hs]

theorem upperLoc_of_dual {c : Config} (hs : c.scheme = .dual) (o : Offset) : upperLoc c o = ⟨.ram, c.dualCommon, o⟩ := by
  simp only [upperLoc, hs]

/-- Under DUAL the lower window is what the map makes of `RB` and `WIN`. -/
theorem lowerLoc_of_dual (hs : s.cfg.scheme = .dual) (o : Offset) :
    lowerLoc s o = ⟨(resolveDual s.cfg s.rb s.win).1, (resolveDual s.cfg s.rb s.win).2, o⟩ := by
  simp only [lowerLoc, hs]

/-- Under DUAL the lower window shows a ROM bank or a RAM bank. -/
theorem lowerLoc_arr_of_dual (hs : s.cfg.scheme = .dual) (o : Offset) :
    (lowerLoc s o).arr = .ram ∨ (lowerLoc s o).arr = .rom := by
  rw [lowerLoc_of_dual hs]
  exact resolveDual_arr s.cfg s.rb s.win

/-- A translation reads the configuration and the bank-select registers only. -/
theorem translateAddr_congr (hcfg : t.cfg = s.cfg) (hbsel : t.bsel = s.bsel) (hrb : t.rb = s.rb) (hwin : t.win = s.win)
    (a : Addr) : translateAddr t a = translateAddr s a := by
  simp only [translateAddr, lowerLoc, hcfg, hbsel, hrb, hwin]

theorem exec_mrdOf (s : State) (a : Addr) : exec (mrdOf a) s = readAt (translateAddr s a) s := by
  unfold mrdOf translateAddr
  split <;> rfl

theorem exec_mwrOf (s : State) (a : Addr) (d : Byte) : exec (mwrOf a d) s = writeAt (translateAddr s a) d s := by
  unfold mwrOf translateAddr
  split <;> rfl

end

/-! Two locations are one storage byte exactly when they are equal. -/

theorem Loc.same_iff_eq (l k : Loc) : l.same k ↔ l = k :=
  ⟨fun h => l.eq_of_key k h.1 h.2, by rintro rfl; exact ⟨rfl, rfl⟩⟩

/-! The platform map (40_bank_translator.md R143). -/

/-- Outside the FLAT array, ROM is the ROM array. -/
theorem Loc.isRom_iff_of_dual {c : Config} {l : Loc} (h : l.arr = .ram ∨ l.arr = .rom) :
    l.isRom c = true ↔ l.arr = .rom := by
  unfold Loc.isRom
  rcases h with h | h <;> simp [h]

/-- Settles O2: the lower window is `resolveDual` of configuration, `RB` and `WIN`, and it lands in range. -/
theorem platformDualMapDependsOnlyOnItsRegisters : Obligations.PlatformDualMapDependsOnlyOnItsRegisters := by
  intro s t o d hs _ hcfg hrb hwin
  have hrange := lowerLoc_inRange s o
  refine ⟨?_, hrange, ?_⟩
  · rw [lowerLoc_of_dual hs, lowerLoc_of_dual (hcfg ▸ hs), hcfg, hrb, hwin]
  · simp only [exec_mwrLo, writeAt_next d hrange, Loc.isRom_iff_of_dual (lowerLoc_arr_of_dual hs o)]

/-! Bank-select writes (40_bank_translator.md R142). -/

/-- A bank-select write completes and keeps the configuration and storage. -/
theorem exec_bankWrite {i : Instr} (h : isBankWrite i = true) (s : State) :
    ∃ t, exec i s = .next t ∧ t.cfg = s.cfg ∧ t.mem = s.mem := by
  cases i with
  | outBsel | outRb | outWin => exact ⟨_, rfl, rfl, rfl⟩
  | _ => cases h

/-- A list of bank-select writes completes and keeps the configuration and storage. -/
theorem execAll_bankWrites {is : List Instr} (h : ∀ i ∈ is, isBankWrite i = true) (s : State) :
    ∃ t, execAll is s = some t ∧ t.cfg = s.cfg ∧ t.mem = s.mem := by
  induction is generalizing s with
  | nil => exact ⟨s, rfl, rfl, rfl⟩
  | cons i is ih =>
    obtain ⟨u, hexec, hcfg, hmem⟩ := exec_bankWrite (h i (by simp)) s
    obtain ⟨t, hrest, hcfg', hmem'⟩ := ih (fun j hj => h j (List.mem_cons_of_mem i hj)) u
    exact ⟨t, by simp only [execAll, hexec, hrest], hcfg'.trans hcfg, hmem'.trans hmem⟩

/-- Settles O3: the upper window is a function of the configuration, which the writes keep with storage. -/
theorem upperWindowIgnoresBankSelectWrites : Obligations.UpperWindowIgnoresBankSelectWrites := by
  intro is s hwrites
  obtain ⟨t, hexec, hcfg, hmem⟩ := execAll_bankWrites hwrites s
  refine ⟨t, hexec, fun a hupper => ?_⟩
  rw [translateAddr_of_upper hupper, translateAddr_of_upper hupper, hcfg]
  exact ⟨rfl, State.readLoc_congr hmem _, fun hs => upperLoc_of_flat hs _, fun hs => upperLoc_of_dual hs _⟩

/-! Range (40_bank_translator.md R137, R141). -/

theorem translateAddr_arr_of_flat {s : State} (hs : s.cfg.scheme = .flat) (a : Addr) :
    (translateAddr s a).arr = .flat := by
  unfold translateAddr
  split
  · rw [upperLoc_of_flat hs]
  · rw [lowerLoc_of_flat hs]

theorem translateAddr_arr_of_dual {s : State} (hs : s.cfg.scheme = .dual) (a : Addr) :
    (translateAddr s a).arr = .ram ∨ (translateAddr s a).arr = .rom := by
  unfold translateAddr
  split
  · rw [upperLoc_of_dual hs]
    exact .inl rfl
  · exact lowerLoc_arr_of_dual hs _

/-- Settles O4: a translation lands in a bank of its array, and the array sizes in numbers are 0x80000 and 0x100000. -/
theorem everyTranslationIsInRange : Obligations.EveryTranslationIsInRange := by
  intro s a hcfg
  have hkey := Loc.key_lt s.cfg _ (translateAddr_inRange hcfg a)
  refine ⟨hkey, fun hs => ?flat, fun hs hbits => ?dual⟩
  case flat =>
    have harr := translateAddr_arr_of_flat hs a
    simp only [harr, arraySize, bankCount, Config.flatBanks, Config.bankSize] at hkey
    exact ⟨harr, by omega⟩
  case dual =>
    have harr := translateAddr_arr_of_dual hs a
    simp only [arraySize, bankCount_dual harr, Config.dualBanks, hbits, Config.bankSize] at hkey
    exact ⟨by rcases harr with h | h <;> simp [h], by omega⟩

/-! Aliasing (40_bank_translator.md R140). -/

/-- Two addresses of one window with one offset are one address. -/
theorem addr_eq_of_window {a b : Addr} (hwindow : addrUpper a = addrUpper b) (hoff : addrOffset a = addrOffset b) :
    a = b := by
  rw [← windowAddr_split a, ← windowAddr_split b, hwindow, hoff]

/-- The two windows show one byte exactly at one offset of the common bank. -/
theorem lowerLoc_eq_upperLoc_iff {s : State} (hm : s.cfg.dualMap = .standard) (o p : Offset) :
    lowerLoc s o = upperLoc s.cfg p ↔ o = p ∧ lowerShowsCommon s = true := by
  unfold lowerShowsCommon
  cases hs : s.cfg.scheme with
  | flat => simp [lowerLoc_of_flat hs, upperLoc_of_flat hs, and_comm]
  | dual =>
    rw [lowerLoc_of_standardDual hs hm, upperLoc_of_dual hs]
    simp only [Bool.and_eq_true, decide_eq_true_eq, getLsbD_zero_iff_odd, Loc.mk.injEq]
    rw [Config.dualBanks]
    by_cases hwin : s.win.toNat % 2 = 1
    · simp [hwin, and_comm]
    · simp [hwin]

/-- Settles O5: within one window one offset is one address; across the windows the lower one must show the common
bank. -/
theorem windowsAliasExactlyAtTheCommonBank : Obligations.WindowsAliasExactlyAtTheCommonBank := by
  intro s a b _ hm hne
  rw [Loc.same_iff_eq]
  by_cases hwindow : addrUpper a = addrUpper b
  · have hoff : addrOffset a ≠ addrOffset b := fun h => hne (addr_eq_of_window hwindow h)
    refine iff_of_false (fun h => hoff ?_) (fun h => hoff h.1)
    simpa using congrArg Loc.off h
  · cases ha : addrUpper a with
    | false =>
      have hb : addrUpper b = true := by simpa [ha] using hwindow
      rw [translateAddr_of_lower ha, translateAddr_of_upper hb]
      exact lowerLoc_eq_upperLoc_iff hm _ _
    | true =>
      have hb : addrUpper b = false := by simpa [ha] using hwindow
      rw [translateAddr_of_upper ha, translateAddr_of_lower hb, eq_comm, lowerLoc_eq_upperLoc_iff hm, eq_comm]

/-! A stored byte is seen (20_memory.md R95; 70_reset_and_hazards.md R468). -/

@[simp] theorem sniffStep_result (b : Byte) (s : State) : (sniffStep b s).result = s.result := by
  rw [sniffStep_frame]

@[simp] theorem translateAddr_writeLoc (s : State) (l : Loc) (d : Byte) (a : Addr) :
    translateAddr (s.writeLoc l d) a = translateAddr s a :=
  translateAddr_congr (s.writeLoc_cfg l d) (s.writeLoc_bsel l d) (s.writeLoc_rb l d) (s.writeLoc_win l d) a

/-- Settles O9: the write stores its byte, moves no window, and both accesses return the byte at the location. -/
theorem storedByteIsSeenByTheNextReadAndFetch : Obligations.StoredByteIsSeenByTheNextReadAndFetch := by
  intro s t a b d hcfg hgood hsame hram hwrite
  rw [Loc.same_iff_eq] at hsame
  rw [exec_mwrOf] at hwrite
  obtain ⟨hrange, ⟨hrom, -⟩ | ⟨-, rfl⟩⟩ := writeAt_inv hwrite
  · exact absurd (hrom.symm.trans hram) (by decide)
  · have hbyte := s.readLoc_writeLoc_same (translateAddr s a) d _ hgood
    rw [exec_mrdOf, exec_mfetchOf, translateAddr_writeLoc, ← hsame, readAt_next (by simpa using hrange),
      fetchAt_next (by simpa using hrange), hbyte]
    exact ⟨_, _, rfl, rfl, rfl, by simp⟩

end Sys2Proof.Machine
end

section
/-! Runs of a list of operations: the induction over the list, once. -/

namespace Sys2Proof.Machine

/-- A run that answers ran its first operation and then the rest. -/
theorem execAll_cons_inv {i : Instr} {is : List Instr} {s t : State} (h : execAll (i :: is) s = some t) :
    ∃ u, exec i s = .next u ∧ execAll is u = some t := by
  cases hexec : exec i s with
  | next u => exact ⟨u, rfl, by simpa only [execAll, hexec] using h⟩
  | fault f => simp only [execAll, hexec, reduceCtorEq] at h
  | refused r => simp only [execAll, hexec, reduceCtorEq] at h

/-- What every operation of a class keeps, a run of such operations keeps. -/
theorem execAll_keeps {P : State → Prop} {is : List Instr}
    (hkeep : ∀ i ∈ is, ∀ s t, exec i s = .next t → P s → P t) {s t : State} (h : execAll is s = some t) (hs : P s) :
    P t := by
  induction is generalizing s with
  | nil =>
    cases h
    exact hs
  | cons i is ih =>
    obtain ⟨u, hexec, hrest⟩ := execAll_cons_inv h
    exact ih (fun j hj => hkeep j (List.mem_cons_of_mem i hj)) hrest (hkeep i List.mem_cons_self s u hexec hs)

end Sys2Proof.Machine
end

section
/-! Reads of the serial controller (42_serial_fifo.md R196, R201 to R207): one equation per pointer value; and the free
byte of a bank-select read (41_port_dispatch.md R175). -/

namespace Sys2Proof.Machine

/-! Free bytes. -/

section
variable (s : State)

theorem exec_inBsel : exec .inBsel s = .next s.retDraw := rfl
theorem exec_inRb : exec .inRb s = .next s.retDraw := rfl
theorem exec_inWin : exec .inWin s = .next s.retDraw := rfl

end

/-- Settles O11: each of the three reads is `State.retDraw`. -/
theorem bankSelectReadBackIsAnyByte : Obligations.BankSelectReadBackIsAnyByte := by
  rintro s i (rfl | rfl | rfl)
  · exact exec_inBsel s
  · exact exec_inRb s
  · exact exec_inWin s

/-! Data reads. -/

theorem exec_inSioData (c : Channel) (s : State) : exec (.inSioData c) s = .next (sioPop c s) := rfl

theorem sioPop_of_cons {c : Channel} {s : State} {b : Byte} {r : List Byte} (h : (s.chan c).q = b :: r) :
    sioPop c s = (s.setChan c ((s.chan c).popped r)).ret b := by
  simp only [sioPop, h]

theorem sioPop_of_nil {c : Channel} {s : State} (h : (s.chan c).q = []) : sioPop c s = s.retDraw := by
  simp only [sioPop, h]

/-- Settles O14, by whether the queue holds a byte. -/
theorem sioDataReadPopsTheOldestByte : Obligations.SioDataReadPopsTheOldestByte := by
  intro s c
  rw [exec_inSioData]
  refine ⟨fun b r hq => ?_, fun hq => ?_⟩
  · rw [sioPop_of_cons hq]
    rfl
  · rw [sioPop_of_nil hq]
    rfl

/-! Control reads. -/

section
variable {c : Channel} {s : State}

theorem exec_inSioCtrl_of_broken (hptr : (s.chan c).ptr = 0#3) (h : (s.sioLine c).broken = true) :
    exec (.inSioCtrl c) s = .fault .hostReadinessFailed := by
  change execInSioCtrl c s = _
  simp only [execInSioCtrl, hptr, h, if_true]

theorem exec_inSioCtrl_of_zero (hptr : (s.chan c).ptr = 0#3) (h : (s.sioLine c).broken = false) :
    exec (.inSioCtrl c) s = .next ((setPtr c 0#3 s).ret (rr0 s c)) := by
  change execInSioCtrl c s = _
  simp [execInSioCtrl, hptr, h]

theorem exec_inSioCtrl_of_one (hptr : (s.chan c).ptr = 1#3) :
    exec (.inSioCtrl c) s = .next ((setPtr c 0#3 s).ret (rr1 (s.chan c))) := by
  change execInSioCtrl c s = _
  simp only [execInSioCtrl, hptr]

theorem exec_inSioCtrl_of_two (hptr : (s.chan c).ptr = 2#3) :
    exec (.inSioCtrl c) s = .next ((setPtr c 0#3 s).ret (rr2 s c)) := by
  change execInSioCtrl c s = _
  simp only [execInSioCtrl, hptr]

theorem exec_inSioCtrl_of_three_le (hptr : 3 ≤ (s.chan c).ptr.toNat) :
    exec (.inSioCtrl c) s = .next (setPtr c 0#3 s).retDraw := by
  change execInSioCtrl c s = _
  unfold execInSioCtrl
  split
  next h => simp [h] at hptr
  next h => simp [h] at hptr
  next h => simp [h] at hptr
  next => rfl

/-- A control read that answers returns the pointer to 0 and touches nothing else but the byte and the draw count. -/
theorem exec_inSioCtrl_inv {t : State} (h : exec (.inSioCtrl c) s = .next t) :
    ∃ result draws, t = { setPtr c 0#3 s with result := result, draws := draws } := by
  change execInSioCtrl c s = .next t at h
  unfold execInSioCtrl at h
  split at h
  · split at h
    · cases h
    · cases h
      exact ⟨_, _, rfl⟩
  all_goals
    cases h
    exact ⟨_, _, rfl⟩

/-- With the pointer at 0 already, returning it to 0 changes nothing. -/
theorem setPtr_zero_of_zero (hptr : (s.chan c).ptr = 0#3) : setPtr c 0#3 s = s := by
  rw [setPtr, ← hptr]
  exact s.setChan_chan c

end

/-- RR0's five status bits stand at 0, 1, 2, 3 and 5; the other bits are 0 (42_serial_fifo.md R204). -/
theorem statusBits (rx irq tx dcd cts : Bool) :
    let v : Byte := bitAt rx 0 ||| bitAt irq 1 ||| bitAt tx 2 ||| bitAt dcd 3 ||| bitAt cts 5
    v.getLsbD 0 = rx ∧ v.getLsbD 1 = irq ∧ v.getLsbD 2 = tx ∧ v.getLsbD 3 = dcd ∧ v.getLsbD 4 = false ∧
      v.getLsbD 5 = cts ∧ v.getLsbD 6 = false ∧ v.getLsbD 7 = false := by
  revert rx irq tx dcd cts
  decide

/-- Settles O16: the failing check, and the byte of RR0 with the pointer left at 0. -/
theorem sioStatusReadReturnsRegisterZero : Obligations.SioStatusReadReturnsRegisterZero := by
  intro s c hptr
  refine ⟨exec_inSioCtrl_of_broken hptr, fun hworks => ⟨rr0 s c, ?_, ?_⟩⟩
  · rw [exec_inSioCtrl_of_zero hptr hworks, setPtr_zero_of_zero hptr]
    rfl
  · exact statusBits _ _ _ _ _

/-- RR1: all sent, and the overrun flag (42_serial_fifo.md R205). -/
theorem rr1_eq (ch : SioChannel) : rr1 ch = if ch.ovr then 0x21 else 0x01 := by
  unfold rr1
  cases ch.ovr <;> rfl

/-- RR2: the computed vector on channel B, WR2 on channel A (42_serial_fifo.md R206). -/
theorem rr2_eq (s : State) (c : Channel) : rr2 s c = if c = .b then computeVector s.sioA s.sioB else s.sioA.wr[2] := by
  cases c <;> rfl

/-- Settles O17, pointer by pointer. -/
theorem sioReadRegistersOneToSeven : Obligations.SioReadRegistersOneToSeven := by
  intro s c
  refine ⟨fun hptr => ?_, fun hptr => ?_, fun hptr => ?_⟩
  · rw [exec_inSioCtrl_of_one hptr, rr1_eq]
    rfl
  · rw [exec_inSioCtrl_of_two hptr, rr2_eq]
    rfl
  · rw [exec_inSioCtrl_of_three_le hptr]
    cases c <;> rfl

end Sys2Proof.Machine
end

section
/-! Conditions, overruns and the silence of channel B (42_serial_fifo.md R192, R193, R195, R198, R200). -/

namespace Sys2Proof.Machine

/-! The vector of the highest condition (42_serial_fifo.md R192). -/

section
variable {a b : SioChannel}

theorem computeVector_of_fixed (h : b.wr[1].getLsbD 2 = false) : computeVector a b = b.wr[2] := by
  simp only [computeVector, h, Bool.false_eq_true, if_false]

theorem computeVector_of_affected (h : b.wr[1].getLsbD 2 = true) :
    computeVector a b = (b.wr[2] &&& 0xF1) ||| ((vectorCode a).setWidth 8 <<< 1) := by
  simp only [computeVector, h, if_true]

theorem vectorCode_of_rxa (h : a.pendRxa = true) : vectorCode a = 0b110 := by
  simp only [vectorCode, h, if_true]

theorem vectorCode_of_err (hrxa : a.pendRxa = false) (herr : a.pendErr = true) : vectorCode a = 0b111 := by
  simp only [vectorCode, hrxa, herr, Bool.false_eq_true, if_false, if_true]

theorem vectorCode_of_none (hrxa : a.pendRxa = false) (herr : a.pendErr = false) : vectorCode a = 0b011 := by
  simp only [vectorCode, hrxa, herr, Bool.false_eq_true, if_false]

end

/-- Settles O23: a raise by channel and latch, and the vector by its mode bit and the pending conditions. -/
theorem raiseLatchesTheVectorOfTheHighestCondition : Obligations.RaiseLatchesTheVectorOfTheHighestCondition := by
  refine ⟨fun s cond => sioRaise_recordsOnly cond (.inl rfl), fun s cond h => sioRaise_recordsOnly cond (.inr h),
    fun s cond h => ?asserts, fun a b => ⟨computeVector_of_fixed, fun hvec hrxa => ?rxa, fun hvec hrxa herr => ?err,
      fun hvec hrxa herr => ?none⟩⟩
  case asserts =>
    rw [sioRaise_asserts cond h]
    simp only [State.markChanged, Bool.or_true]
    rfl
  case rxa =>
    rw [computeVector_of_affected hvec, vectorCode_of_rxa hrxa]
    rfl
  case err =>
    rw [computeVector_of_affected hvec, vectorCode_of_err hrxa herr]
    rfl
  case none =>
    rw [computeVector_of_affected hvec, vectorCode_of_none hrxa herr]
    rfl

/-! Overruns (42_serial_fifo.md R195, R198). -/

theorem pushAll_append (c : Channel) (bs cs : List Byte) (s : State) :
    pushAll c (bs ++ cs) s = pushAll c cs (pushAll c bs s) := List.foldl_append

/-- A received byte leaves the receiver as it was. -/
theorem chan_sioPush_rxOn (c : Channel) (b : Byte) (s : State) :
    ((sioPush c b s).chan c).rxOn = (s.chan c).rxOn := by
  obtain ⟨hwr, -⟩ := chan_sioPush_wr_ptr c b s
  simp only [SioChannel.rxOn, hwr]

/-- With the receiver on, a received byte grows the queue by one up to its depth. -/
theorem chan_sioPush_length {c : Channel} {s : State} (b : Byte) (hon : (s.chan c).rxOn = true)
    (hlen : (s.chan c).q.length ≤ Config.sioQueueDepth) :
    ((sioPush c b s).chan c).q.length = min Config.sioQueueDepth ((s.chan c).q.length + 1) := by
  by_cases hfull : (s.chan c).q.length = Config.sioQueueDepth
  · rw [chan_sioPush_of_full b hon hfull]
    simp [replaceLast, hfull]
  · rw [chan_sioPush_of_room b hon hfull]
    have hroom : (s.chan c).q.length + 1 ≤ Config.sioQueueDepth := by omega
    simp [hroom]

/-- A list of received bytes keeps the receiver on and grows the queue by its length up to the depth. -/
theorem chan_pushAll_length {c : Channel} {s : State} (bs : List Byte) (hon : (s.chan c).rxOn = true)
    (hlen : (s.chan c).q.length ≤ Config.sioQueueDepth) :
    ((pushAll c bs s).chan c).rxOn = true ∧
      ((pushAll c bs s).chan c).q.length = min Config.sioQueueDepth ((s.chan c).q.length + bs.length) := by
  induction bs using List.reverseRecOn with
  | nil => exact ⟨hon, by simp [pushAll, hlen]⟩
  | append_singleton bs b ih =>
    obtain ⟨hon', hlen'⟩ := ih
    rw [pushAll_append]
    change ((sioPush c b (pushAll c bs s)).chan c).rxOn = true ∧ ((sioPush c b (pushAll c bs s)).chan c).q.length = _
    rw [chan_sioPush_rxOn, chan_sioPush_length b hon' (hlen' ▸ min_le_left _ _), hlen', List.length_append]
    refine ⟨hon', ?_⟩
    simp only [List.length_singleton]
    omega

/-- Replacing the newest byte of a full queue makes it the last one. -/
theorem replaceLast_getLast? {q : List Byte} (hfull : q.length = Config.sioQueueDepth) (b : Byte) :
    (replaceLast q b).getLast? = some b := by
  have hpos : Config.sioQueueDepth - 1 < q.length := by rw [hfull]; decide
  rw [List.getLast?_eq_getElem?, replaceLast, List.length_set, hfull, List.getElem?_set_self hpos]

/-- Settles O24: before its last byte the list has filled the queue, so the last byte replaces the newest. -/
theorem overrunKeepsTheQueueAtItsDepth : Obligations.OverrunKeepsTheQueueAtItsDepth := by
  intro s c bs hon hlen hover hne
  obtain ⟨front, b, rfl⟩ := (List.eq_nil_or_concat' bs).resolve_left hne
  obtain ⟨hon', hlen'⟩ := chan_pushAll_length front hon hlen
  have hfull : ((pushAll c front s).chan c).q.length = Config.sioQueueDepth := by
    simp only [List.length_append, List.length_singleton] at hover
    rw [hlen', Config.sioQueueDepth]
    omega
  rw [pushAll_append]
  change ((sioPush c b (pushAll c front s)).chan c).q.length = 3 ∧ ((sioPush c b (pushAll c front s)).chan c).ovr = true ∧
    ((sioPush c b (pushAll c front s)).chan c).q.getLast? = _
  rw [chan_sioPush_of_full b hon' hfull]
  exact ⟨List.length_set.trans hfull, rfl, by simp [replaceLast_getLast? hfull]⟩

/-! Channel B (42_serial_fifo.md R200). -/

/-- A WR0 write leaves the latch to its command. -/
theorem wr0Write_asserted {c : Channel} {crc : BitVec 2} {cmd ptr : BitVec 3} {act : State → State} {s t : State}
    (hact : ∀ u, (act u).sioAsserted = u.sioAsserted) (h : wr0Write c crc cmd ptr act s = .next t) :
    t.sioAsserted = s.sioAsserted := by
  cases h
  simp [setPtr, storeWr0, hact]

/-- An operation on channel B leaves the latch alone. -/
theorem exec_channelB_asserted {i : Instr} (hi : onChannelB i = true) {s t : State} (h : exec i s = .next t) :
    t.sioAsserted = s.sioAsserted := by
  cases i with
  | inSioData c =>
    cases h
    rcases sioPop_cases c s with ⟨-, heq⟩ | ⟨b, r, -, heq⟩ <;> simp [heq]
  | outSioData c d =>
    cases h
    simp
  | inSioCtrl c =>
    obtain ⟨result, draws, rfl⟩ := exec_inSioCtrl_inv h
    simp [setPtr]
  | outSioCmd0 | outSioCmd1 | outSioCmd2 | outSioCmd5 => exact wr0Write_asserted (fun _ => rfl) h
  | outSioCmd3 | outSioCmd4 | outSioCmd6 => exact wr0Write_asserted (fun u => u.setChan_sioAsserted _ _) h
  | outSioCmd7 c =>
    obtain rfl : c = .b := of_decide_eq_true hi
    exact wr0Write_asserted (fun _ => rfl) h
  | outSioWrn c d =>
    cases h
    simp
  | _ => cases hi

/-- A byte received on channel B leaves the latch alone. -/
theorem sioPush_b_asserted (b : Byte) (s : State) : (sioPush .b b s).sioAsserted = s.sioAsserted := by
  obtain ⟨ch, hpush⟩ := sioPush_setsChan_only (c := .b) (s := s) b (.inr (.inl rfl))
  rw [hpush, State.setChan_sioAsserted]

theorem pushAll_b_asserted (bs : List Byte) (s : State) : (pushAll .b bs s).sioAsserted = s.sioAsserted := by
  induction bs generalizing s with
  | nil => rfl
  | cons b bs ih => exact (ih (sioPush .b b s)).trans (sioPush_b_asserted b s)

/-- Settles O25: neither an operation on channel B nor a byte received on it moves the latch. -/
theorem channelBNeverAsserts : Obligations.ChannelBNeverAsserts := by
  refine ⟨fun is s t his hexec hclear => ?_, fun bs s hclear => (pushAll_b_asserted bs s).trans hclear⟩
  exact execAll_keeps (P := fun u => u.sioAsserted = false)
    (fun i hi u v hstep hu => (exec_channelB_asserted (his i hi) hstep).trans hu) hexec hclear

end Sys2Proof.Machine
end

section
/-! UART reads with an effect (43_uart.md R262, R265, R268, R269, R281), the divisor latch over steps (R287), and words
written out from the encoding (30_encoding.md R100, R109; 41_port_dispatch.md R179). -/

namespace Sys2Proof.Machine

/-! Reads with an effect. -/

section
variable (i : Nat) (s : State)

theorem exec_inUartRbr : exec (.inUartRbr i) s =
    uartIn i s Uart.rbr (fun u => { u with lsr := u.lsr &&& ~~~0x01, pendRx := false }) fun _ => true := rfl

theorem exec_inUartIir : exec (.inUartIir i) s =
    uartIn i s Uart.iir (fun u => if u.iir = 0x02 then { u with pendThre := false } else u) fun u => u.iir == 0x02 := rfl

theorem exec_inUartLsr : exec (.inUartLsr i) s =
    uartIn i s Uart.lsr (fun u => { u with lsr := u.lsr &&& ~~~0x1E }) fun _ => false := rfl

theorem exec_inUartMsr : exec (.inUartMsr i) s =
    uartIn i s Uart.msr (fun u => { u with msr := u.msr &&& 0xF0, pendMs := false }) fun _ => true := rfl

end

section
variable {s : State} {i : Nat} {n : UartUnit} (hn : s.uarts[i]? = some n)
include hn

/-- A read that happens to leave the registers alone and to ask for no `CHANGED` has its byte as result only. -/
theorem uartIn_of_noEffect {value : Uart → Byte} {after : Uart → Uart} {touch : Uart → Bool}
    (hafter : after n.uart = n.uart) (htouch : touch n.uart = false) :
    uartIn i s value after touch = .next (s.ret (value n.uart)) := by
  rw [uartIn_next hn, hafter, htouch, State.setUart_get s i n hn, State.markChanged_false]

/-- A read that asks for `CHANGED` sets it, replaces the registers and returns its byte. -/
theorem uartIn_of_touch {value : Uart → Byte} {after : Uart → Uart} {touch : Uart → Bool}
    (htouch : touch n.uart = true) :
    uartIn i s value after touch = .next
      { s with
        uarts := s.uarts.set i { n with uart := after n.uart }, changed := true, result := some (value n.uart) } := by
  rw [uartIn_next hn, htouch]
  simp only [State.setUart, State.markChanged, State.ret, Bool.or_true]

/-- An identification read that reports no THRE has no effect. -/
theorem exec_inUartIir_of_ne (h : n.uart.iir ≠ 0x02) : exec (.inUartIir i) s = .next (s.ret n.uart.iir) := by
  rw [exec_inUartIir, uartIn_of_noEffect hn]
  · exact if_neg h
  · exact beq_false_of_ne h

/-- An identification read that reports THRE acknowledges it. -/
theorem exec_inUartIir_of_thre (h : n.uart.iir = 0x02) :
    exec (.inUartIir i) s = .next
      { s with
        uarts := s.uarts.set i { n with uart := { n.uart with pendThre := false } }
        changed := true, result := some n.uart.iir } := by
  rw [exec_inUartIir, uartIn_of_touch hn, if_pos h]
  exact beq_iff_eq.2 h

end

/-! The identification by its pending sources (43_uart.md R281). -/

section
variable {u : Uart}

theorem Uart.iir_of_rx (hrx : u.pendRx = true) : u.iir = 0x04 := by
  simp only [Uart.iir, hrx, if_true]

theorem Uart.iir_of_thre (hrx : u.pendRx = false) (hthre : u.pendThre = true) : u.iir = 0x02 := by
  simp only [Uart.iir, hrx, hthre, Bool.false_eq_true, if_false, if_true]

theorem Uart.iir_of_ms (hrx : u.pendRx = false) (hthre : u.pendThre = false) (hms : u.pendMs = true) : u.iir = 0x00 := by
  simp only [Uart.iir, hrx, hthre, hms, Bool.false_eq_true, if_false, if_true]

theorem Uart.iir_of_none (hrx : u.pendRx = false) (hthre : u.pendThre = false) (hms : u.pendMs = false) :
    u.iir = 0x01 := by
  simp only [Uart.iir, hrx, hthre, hms, Bool.false_eq_true, if_false]

end

/-- Settles O27, by the highest pending source. -/
theorem identificationReadAcknowledgesTransmit : Obligations.IdentificationReadAcknowledgesTransmit := by
  intro s i n hn
  refine ⟨fun hrx => ?rx, fun hrx hthre => ?thre, fun hrx hthre hms => ?ms, fun hrx hthre hms => ?none⟩
  case rx =>
    have hid := Uart.iir_of_rx hrx
    rw [exec_inUartIir_of_ne hn (by rw [hid]; decide), hid]
    rfl
  case thre =>
    have hid := Uart.iir_of_thre hrx hthre
    rw [exec_inUartIir_of_thre hn hid, hid]
  case ms =>
    have hid := Uart.iir_of_ms hrx hthre hms
    rw [exec_inUartIir_of_ne hn (by rw [hid]; decide), hid]
    rfl
  case none =>
    have hid := Uart.iir_of_none hrx hthre hms
    rw [exec_inUartIir_of_ne hn (by rw [hid]; decide), hid]
    rfl

/-- Settles O28: RBR and MSR reads ask for `CHANGED`, an LSR read does not. -/
theorem clearingUartReadsClearWhatTheyReport : Obligations.ClearingUartReadsClearWhatTheyReport := by
  intro s i n hn
  refine ⟨?rbr, ?lsr, ?msr⟩
  case rbr =>
    rw [exec_inUartRbr, uartIn_of_touch hn rfl]
    rfl
  case lsr =>
    rw [exec_inUartLsr, uartIn_next hn, State.markChanged_false]
    rfl
  case msr => rw [exec_inUartMsr, uartIn_of_touch hn rfl]

/-! The divisor latch (43_uart.md R287). -/

/-- A step on the word of an operation well-formed in the state's view runs that operation. -/
theorem step_of_encoded {s : State} {i : Instr} {rest : List Input} (hcfg : configValid s.cfg = true)
    (hwf : i.wellFormed s.view = true) (hin : s.inbox = .word (encode s.cfg i) :: rest) :
    step s = exec i { s with inbox := rest, result := none } :=
  step_of_decoded hcfg hin (decodeOfEncodeIsTheOperation s.view i hcfg hwf)

/-- Settles O31: with the latch bit set the words of offsets 0 and 1 are those of `DLL` and `DLM`, each a plain read or
write of that register. -/
theorem divisorLatchHidesTheReceiverAndEnables : Obligations.DivisorLatchHidesTheReceiverAndEnables := by
  intro s i n d rest hcfg hi hn hlatch
  have hdlab : s.view.dlabOf i = true := by simp [DecodeView.dlabOf, State.view, hn, hlatch]
  have hwf : (s.view.hasUart i && s.view.dlabOf i) = true := by rw [hdlab, Bool.and_true]; exact decide_eq_true hi
  have hn' : ({ s with inbox := rest, result := none } : State).uarts[i]? = some n := hn
  refine ⟨fun hin => ?_, fun hin => ?_, fun hin => ?_, fun hin => ?_⟩
  · exact (step_of_encoded (i := .inUartDll i) hcfg hwf hin).trans (uartIn_of_readOnly hn' Uart.dll)
  · exact (step_of_encoded (i := .inUartDlm i) hcfg hwf hin).trans (uartIn_of_readOnly hn' Uart.dlm)
  · exact (step_of_encoded (i := .outUartDll i d) hcfg hwf hin).trans (uartOut_of_silent hn' fun u => { u with dll := d })
  · exact (step_of_encoded (i := .outUartDlm i d) hcfg hwf hin).trans (uartOut_of_silent hn' fun u => { u with dlm := d })

/-! Sample words (30_encoding.md R100, R109; 41_port_dispatch.md R179). -/

/-- The port is the low byte of an I/O address. -/
theorem addrPort_append (x p : Byte) : addrPort (x ++ p) = p := by
  refine BitVec.eq_of_getLsbD_eq fun i hi => ?_
  simp only [addrPort, BitVec.getLsbD_extractLsb', BitVec.getLsbD_append, Nat.zero_add, hi, decide_true, Bool.true_and,
    if_true]

/-- Settles O55: eight closed words, and a port access that reads the low byte of its address only. -/
theorem sampleWordsDecodeToTheirOperation : Obligations.SampleWordsDecodeToTheirOperation := by
  refine ⟨rfl, rfl, rfl, rfl, rfl, rfl, rfl, rfl, ?_⟩
  rintro v k x y p d (rfl | rfl)
  · simp [decode, addrPort_append]
  · simp [decode, addrPort_append]

end Sys2Proof.Machine
end

section
/-! The disk bridge's control writes (44_disk_bridge.md R326 to R332; 10_state.md R54). The strobes' edges and the fields
of a transfer are put in numbers once; a control write is then one equation with the reset strobe high and one with it low,
from which the single transfers and the count over repeated writes follow. -/

namespace Sys2Proof.Machine

/-! Edges and transfer fields, in numbers. -/

/-- A bit rises when it is set now and was clear before (44_disk_bridge.md R326). -/
theorem rises_eq (old new : Byte) (bit : Fin 8) :
    rises old new bit = (new.getLsbD bit.val && !old.getLsbD bit.val) := by
  simp only [rises, BitVec.getLsbD_and, BitVec.getLsbD_xor]
  cases old.getLsbD bit.val <;> cases new.getLsbD bit.val <;> rfl

/-- The selector is the low three bits of the control byte with the offset bit above them (44_disk_bridge.md R327). -/
theorem diskSelector_eq (c : Config) (d : Byte) :
    diskSelector c d = BitVec.ofNat 4 (d.toNat % 8 + if d.getLsbD c.dbOfsBit.val then 8 else 0) := by
  have hlow : (d.extractLsb' 0 3).toNat = d.toNat % 8 := by simp
  refine BitVec.eq_of_toNat_eq ?_
  rw [diskSelector, BitVec.toNat_append, ← Nat.shiftLeft_add_eq_or_of_lt (BitVec.isLt _), hlow, Nat.shiftLeft_eq,
    BitVec.toNat_ofNat]
  cases d.getLsbD c.dbOfsBit.val
  · simp only [BitVec.toNat_ofBool, Bool.toNat_false, Bool.false_eq_true, if_false]
    omega
  · simp only [BitVec.toNat_ofBool, Bool.toNat_true, if_true]
    omega

/-- The transfer value is `DHI * 256 + DLO` (20_memory.md R84). -/
theorem diskData_eq (b : DiskBridge) : diskData b = BitVec.ofNat 16 (b.dhi.toNat * 256 + b.dlo.toNat) := by
  have hlo := b.dlo.isLt
  have hhi := b.dhi.isLt
  refine BitVec.eq_of_toNat_eq ?_
  rw [diskData, BitVec.toNat_append, ← Nat.shiftLeft_add_eq_or_of_lt hlo, Nat.shiftLeft_eq, BitVec.toNat_ofNat]
  omega

theorem lowByte_eq (v : Half) : v.extractLsb' 0 8 = BitVec.ofNat 8 v.toNat := by
  refine BitVec.eq_of_toNat_eq ?_
  simp

theorem highByte_eq (v : Half) : v.extractLsb' 8 8 = BitVec.ofNat 8 (v.toNat / 256) := by
  refine BitVec.eq_of_toNat_eq ?_
  simp [Nat.shiftRight_eq_div_pow]

/-! A control write. -/

theorem exec_outDbCtl (d : Byte) (s : State) : exec (.outDbCtl d) s = .next (controlWrite d s) := rfl

/-- The state after a control write stored its byte and no strobe was looked at yet. -/
def storeCtl (d : Byte) (s : State) : State := { s with db := { s.db with ctl := d, prev := d } }

section
variable {d : Byte} {s : State}

/-- With the reset strobe high a control write resets the device on the rise of the strobe, and no more. -/
theorem controlWrite_of_resetHigh (h : d.getLsbD s.cfg.dbRstBit.val = true) :
    controlWrite d s = if s.db.prev.getLsbD s.cfg.dbRstBit.val then storeCtl d s else (storeCtl d s).emit .devReset := by
  simp only [controlWrite, rises_eq, h, if_true, Bool.true_and, Bool.not_eq_true', storeCtl]
  cases s.db.prev.getLsbD s.cfg.dbRstBit.val <;> rfl

/-- With the reset strobe low a control write makes the write transfer, then the read transfer, each on the rise of its
strobe. -/
theorem controlWrite_of_resetLow (h : d.getLsbD s.cfg.dbRstBit.val = false) :
    controlWrite d s =
      let written := if rises s.db.prev d s.cfg.dbWrBit then writeTransfer (diskSelector s.cfg d) (storeCtl d s)
        else storeCtl d s
      if rises s.db.prev d s.cfg.dbRdBit then readTransfer (diskSelector s.cfg d) written else written := by
  have hreset : rises s.db.prev d s.cfg.dbRstBit = false := by rw [rises_eq, h, Bool.false_and]
  simp only [controlWrite, hreset, h, Bool.false_eq_true, if_false, storeCtl]

/-- The state after the write transfer, if there is one: its event, and nothing else beside the stored byte. -/
theorem writtenPart_eq (d : Byte) (s : State) :
    (if rises s.db.prev d s.cfg.dbWrBit then writeTransfer (diskSelector s.cfg d) (storeCtl d s) else storeCtl d s) =
      { storeCtl d s with
        events := s.events ++
          if d.getLsbD s.cfg.dbWrBit.val && !s.db.prev.getLsbD s.cfg.dbWrBit.val then
            [.devWrite16 (BitVec.ofNat 4 (d.toNat % 8 + if d.getLsbD s.cfg.dbOfsBit.val then 8 else 0))
              (BitVec.ofNat 16 (s.db.dhi.toNat * 256 + s.db.dlo.toNat))]
          else [] } := by
  rw [rises_eq, diskSelector_eq]
  split
  · rw [writeTransfer, diskData_eq]
    rfl
  · rw [List.append_nil]
    rfl

end

/-- Settles O36: the strobe rises exactly when its bit was clear before. -/
theorem resetStrobeSuppressesTransfers : Obligations.ResetStrobeSuppressesTransfers := by
  intro s d hhigh
  rw [exec_outDbCtl, controlWrite_of_resetHigh hhigh]
  cases s.db.prev.getLsbD s.cfg.dbRstBit.val
  · rfl
  · simp [storeCtl]

/-- Settles O37: without a rising read strobe the control write ends after its write part. -/
theorem risingWriteStrobeWritesTheDevice : Obligations.RisingWriteStrobeWritesTheDevice := by
  intro s d hlow hread
  have hnoRead : rises s.db.prev d s.cfg.dbRdBit = false := by
    rw [rises_eq]
    rcases hread with h | h <;> rw [h]
    · rfl
    · exact Bool.and_false _
  rw [exec_outDbCtl, controlWrite_of_resetLow hlow, writtenPart_eq]
  simp only [hnoRead, Bool.false_eq_true, if_false]
  rfl

/-! Read transfers. -/

section
variable {s : State} (sel : BitVec 4)

theorem readTransfer_of_answer {v : Half} {rest : List Half} (hdev : s.dev.attached = true)
    (hanswers : s.dev.answers = v :: rest) :
    readTransfer sel s = latchRead sel v { s with dev := { s.dev with answers := rest } } := by
  simp only [readTransfer, hdev, hanswers, if_true]

theorem readTransfer_of_free (hdev : s.dev.attached = true) (hanswers : s.dev.answers = []) :
    readTransfer sel s = latchRead sel (Config.deviceRead s.draws sel) { s with draws := s.draws + 1 } := by
  simp only [readTransfer, hdev, hanswers, if_true]

theorem readTransfer_of_detached (hdev : s.dev.attached = false) : readTransfer sel s = latchRead sel 0xFFFF s := by
  simp only [readTransfer, hdev, Bool.false_eq_true, if_false]

end

/-- Settles O38: the read transfer of the state after the write part, by what the device answers. -/
theorem risingReadStrobeLatchesTheDevice : Obligations.RisingReadStrobeLatchesTheDevice := by
  intro s d hlow hset hclear sel latched
  have hread : rises s.db.prev d s.cfg.dbRdBit = true := by rw [rises_eq, hset, hclear]; rfl
  rw [exec_outDbCtl, controlWrite_of_resetLow hlow, writtenPart_eq]
  simp only [hread, if_true, diskSelector_eq]
  refine ⟨fun v rest hdev hanswers => ?answer, fun hdev hanswers => ?free, fun hdev => ?detached⟩
  case answer =>
    rw [readTransfer_of_answer sel (by exact hdev) (by exact hanswers), latchRead, lowByte_eq, highByte_eq]
    rfl
  case free =>
    rw [readTransfer_of_free sel (by exact hdev) (by exact hanswers), latchRead, lowByte_eq, highByte_eq]
    simp only [latched, ← hanswers]
    rfl
  case detached =>
    rw [readTransfer_of_detached sel (by exact hdev), latchRead, lowByte_eq, highByte_eq]
    rfl

/-! Repeated control writes (44_disk_bridge.md R331). -/

theorem transferCount_writeTransfer (sel : BitVec 4) (s : State) :
    transferCount (writeTransfer sel s) = transferCount s + 1 := by
  simp [transferCount, writeTransfer, State.emit, Event.isTransfer]

theorem transferCount_readTransfer (sel : BitVec 4) (s : State) :
    transferCount (readTransfer sel s) = transferCount s + 1 := by
  obtain ⟨v, heq⟩ := readTransfer_frame sel s
  rw [heq]
  simp [transferCount, Event.isTransfer]

/-- A control write with the reset strobe low makes one transfer for each strobe that rises. -/
theorem transferCount_controlWrite {d : Byte} {s : State} (h : d.getLsbD s.cfg.dbRstBit.val = false) :
    transferCount (controlWrite d s) =
      transferCount s + (rises s.db.prev d s.cfg.dbWrBit).toNat + (rises s.db.prev d s.cfg.dbRdBit).toNat := by
  have hstore : transferCount (storeCtl d s) = transferCount s := rfl
  rw [controlWrite_of_resetLow h]
  cases rises s.db.prev d s.cfg.dbWrBit <;> cases rises s.db.prev d s.cfg.dbRdBit <;>
    simp [transferCount_writeTransfer, transferCount_readTransfer, hstore]

/-- A control write leaves its byte in `PREV`. -/
theorem controlWrite_prev (d : Byte) (s : State) : (controlWrite d s).db.prev = d := by
  rw [controlWrite_frame]

@[simp] theorem controlWrite_cfg (d : Byte) (s : State) : (controlWrite d s).cfg = s.cfg := by
  rw [controlWrite_frame]

/-- While `PREV` is the byte written, no strobe rises: any number of such writes completes without a transfer. -/
theorem execAll_repeatedControl {v : Byte} (n : Nat) {s : State} (hlow : v.getLsbD s.cfg.dbRstBit.val = false)
    (hprev : s.db.prev = v) :
    ∃ t, execAll (List.replicate n (.outDbCtl v)) s = some t ∧ transferCount t = transferCount s := by
  induction n generalizing s with
  | zero => exact ⟨s, rfl, rfl⟩
  | succ n ih =>
    obtain ⟨t, hrest, hcount⟩ := ih (s := controlWrite v s) (by simpa using hlow) (controlWrite_prev v s)
    refine ⟨t, hrest, ?_⟩
    rw [hcount, transferCount_controlWrite hlow, hprev]
    simp [rises_eq]

/-- Settles O39: the first write transfers once per strobe, and after it `PREV` is the value. -/
theorem repeatedControlWritesTransferOnce : Obligations.RepeatedControlWritesTransferOnce := by
  intro s v n hlow hwrite hread
  have hrises : ∀ bit : Fin 8, (v.getLsbD bit.val = true → s.db.prev.getLsbD bit.val = false) →
      rises s.db.prev v bit = v.getLsbD bit.val := by
    intro bit hclear
    rw [rises_eq]
    cases hbit : v.getLsbD bit.val with
    | false => rfl
    | true => rw [hclear hbit]; rfl
  obtain ⟨t, hrest, hcount⟩ :=
    execAll_repeatedControl n (s := controlWrite v s) (by simpa using hlow) (controlWrite_prev v s)
  refine ⟨t, hrest, ?_⟩
  rw [hcount, transferCount_controlWrite hlow, hrises _ hwrite, hrises _ hread]

end Sys2Proof.Machine
end

section
/-! The RETI detector (45_interrupt_arbiter.md R360 to R368). Its table is written as two functions of its own state and
the byte, what comes next and whether a return completes; a step is tied to them by one equation, and the sequences of the
spec are then evaluated on the table. -/

namespace Sys2Proof.Machine

/-! The table. -/

/-- The byte completes a return. -/
def Sniff.completes (q : Sniff) (b : Byte) : Bool := decide (q = .afterEd ∧ b = 0x4D)

/-- The detector's next state. -/
def Sniff.next (q : Sniff) (b : Byte) : Sniff :=
  match q with
  | .afterEd | .afterCb => .idle
  | .idle | .afterIxiy =>
    if b = 0xED then .afterEd
    else if b = 0xDD ∨ b = 0xFD then .afterIxiy
    else if q = .idle ∧ b = 0xCB then .afterCb
    else .idle

/-- The returns a sequence of fetched bytes completes. -/
def Sniff.returns : Sniff → List Byte → Nat
  | _, [] => 0
  | q, b :: bs => (q.completes b).toNat + Sniff.returns (q.next b) bs

/-- Only `4D` completes a return. -/
theorem Sniff.completes_of_ne (q : Sniff) {b : Byte} (hb : b ≠ 0x4D) : q.completes b = false :=
  decide_eq_false fun h => hb h.2

/-- From the start of an instruction, or after DD or FD, a byte that starts nothing leads to the start. -/
theorem Sniff.next_of_noPrefix {q : Sniff} {b : Byte} (hq : q = .idle ∨ q = .afterIxiy) (hed : b ≠ 0xED) (hdd : b ≠ 0xDD)
    (hfd : b ≠ 0xFD) (hcb : b ≠ 0xCB) : q.next b = .idle := by
  rcases hq with rfl | rfl <;>
    exact (if_neg hed).trans ((if_neg (not_or.2 ⟨hdd, hfd⟩)).trans (if_neg fun h => hcb h.2))

/-- A step of the detector follows the table, and hands a completed return to the arbiter. -/
theorem sniffStep_eq (b : Byte) (s : State) :
    sniffStep b s =
      if s.sniff.completes b then onReti ({ s with sniff := .idle }.emit .reti)
      else { s with sniff := s.sniff.next b } := by
  unfold sniffStep Sniff.completes Sniff.next
  cases s.sniff with
  | afterEd => by_cases h : b = 0x4D <;> simp [h]
  | afterCb => simp
  | idle | afterIxiy =>
    simp only [reduceCtorEq, false_and, true_and, decide_false, Bool.false_eq_true, if_false]
    split_ifs <;> rfl

theorem sniffStep_of_not_completes {b : Byte} {s : State} (h : s.sniff.completes b = false) :
    sniffStep b s = { s with sniff := s.sniff.next b } := by
  rw [sniffStep_eq, if_neg (by simp [h])]

@[simp] theorem sniffStep_sniff (b : Byte) (s : State) : (sniffStep b s).sniff = s.sniff.next b := by
  cases h : s.sniff.completes b with
  | false => rw [sniffStep_of_not_completes h]
  | true =>
    obtain ⟨hed, -⟩ := of_decide_eq_true h
    rw [sniffStep_eq, if_pos h, onReti_frame, hed]
    rfl

/-- A step emits a RETI exactly when it completes a return. -/
theorem retiCount_sniffStep (b : Byte) (s : State) :
    retiCount (sniffStep b s) = retiCount s + (s.sniff.completes b).toNat := by
  rw [sniffStep_eq]
  cases s.sniff.completes b
  · rfl
  · rw [if_pos rfl, retiCount_onReti]
    simp [retiCount]

/-- A sequence of fetched bytes emits a RETI for each return it completes. -/
theorem retiCount_sniffAll (bs : List Byte) (s : State) :
    retiCount (sniffAll bs s) = retiCount s + s.sniff.returns bs := by
  induction bs generalizing s with
  | nil => rfl
  | cons b bs ih =>
    change retiCount (sniffAll bs (sniffStep b s)) = _
    rw [ih, retiCount_sniffStep, sniffStep_sniff, Sniff.returns, Nat.add_assoc]

/-! The obligations. -/

/-- Settles O42: outside the completing byte a step is the table's move, read off case by case. -/
theorem detectorFollowsItsTable : Obligations.DetectorFollowsItsTable := by
  intro s b
  have moves : ∀ {q : Sniff}, s.sniff.completes b = false → s.sniff.next b = q →
      sniffStep b s = { s with sniff := q } := by
    rintro _ hnot rfl
    exact sniffStep_of_not_completes hnot
  refine ⟨fun hs => ?afterCb, fun hs hb => ?afterEd, fun hs => ?prefixes, fun hs hb => ?idleCb, fun hs hb => ?ixiyCb⟩
  case afterCb => exact moves (by simp [hs, Sniff.completes]) (by simp [hs, Sniff.next])
  case afterEd => exact moves (Sniff.completes_of_ne _ hb) (by simp [hs, Sniff.next])
  case prefixes =>
    have hnot : s.sniff.completes b = false := by rcases hs with hs | hs <;> simp [hs, Sniff.completes]
    refine ⟨fun hb => moves hnot ?_, fun hb => moves hnot ?_, fun hed hdd hfd hcb =>
      moves hnot (Sniff.next_of_noPrefix hs hed hdd hfd hcb)⟩
    · rcases hs with hs | hs <;> simp [hs, hb, Sniff.next]
    · rcases hs with hs | hs <;> rcases hb with hb | hb <;> simp [hs, hb, Sniff.next]
  case idleCb => exact moves (by simp [hs, Sniff.completes]) (by simp [hs, hb, Sniff.next])
  case ixiyCb => exact moves (by simp [hs, Sniff.completes]) (by simp [hs, hb, Sniff.next])

/-- Settles O44: the returns of each sequence, counted on the table. -/
theorem prefixesNeitherHideNorFakeAReturn : Obligations.PrefixesNeitherHideNorFakeAReturn := by
  intro s hs
  simp only [retiCount_sniffAll, hs, Nat.add_right_inj, Nat.add_eq_left]
  refine ⟨by decide, by decide, fun b hb => ?_⟩
  change (Sniff.completes .idle 0xED).toNat + ((Sniff.completes .afterEd b).toNat + 0) = 0
  rw [Sniff.completes_of_ne _ hb]
  rfl

/-! Fetches with data reads between (45_interrupt_arbiter.md R363, R367). -/

/-- A fetch returns its byte and feeds it to the detector. -/
theorem exec_mfetchOf_inv {s t : State} {a : Addr} {b : Byte} (h : exec (mfetchOf a) s = .next t)
    (hbyte : t.result = some b) : t.sniff = s.sniff.next b ∧ retiCount t = retiCount s + (s.sniff.completes b).toNat := by
  rw [exec_mfetchOf] at h
  obtain ⟨-, rfl⟩ := fetchAt_inv h
  obtain rfl : s.readLoc (translateAddr s a) = b := by simpa using hbyte
  exact ⟨sniffStep_sniff _ _, retiCount_sniffStep _ _⟩

/-- A data read neither moves the detector nor emits an event. -/
theorem exec_mrdOf_inv {s t : State} {a : Addr} (h : exec (mrdOf a) s = .next t) :
    t.sniff = s.sniff ∧ retiCount t = retiCount s := by
  rw [exec_mrdOf] at h
  obtain ⟨-, rfl⟩ := readAt_inv h
  exact ⟨rfl, rfl⟩

/-- Settles O43: the first fetch leaves the detector after ED, the reads keep it there, the second fetch completes. -/
theorem fetchedPairEmitsOneReturnEvent : Obligations.FetchedPairEmitsOneReturnEvent := by
  intro s t u v a b reads hs hfirst hed hreads hsecond h4d
  have hfirstStep : s.sniff.next 0xED = .afterEd ∧ s.sniff.completes 0xED = false := by
    rcases hs with hs | hs <;> rw [hs] <;> decide
  obtain ⟨hsniff, hcount⟩ := exec_mfetchOf_inv hfirst hed
  rw [hfirstStep.1] at hsniff
  rw [hfirstStep.2] at hcount
  have hkept : u.sniff = .afterEd ∧ retiCount u = retiCount s := by
    refine execAll_keeps (P := fun w => w.sniff = .afterEd ∧ retiCount w = retiCount s) (fun i hi w x hexec hw => ?_)
      hreads ⟨hsniff, hcount⟩
    obtain ⟨c, -, rfl⟩ := List.mem_map.1 hi
    obtain ⟨hsame, hnone⟩ := exec_mrdOf_inv hexec
    exact ⟨hsame.trans hw.1, hnone.trans hw.2⟩
  obtain ⟨hsniff', hcount'⟩ := hkept
  obtain ⟨-, hlast⟩ := exec_mfetchOf_inv hsecond h4d
  rw [hsniff', hcount'] at hlast
  exact ⟨hcount, hcount', hlast⟩

end Sys2Proof.Machine
end

section
/-! No interrupt before firmware enables one (70_reset_and_hazards.md R457). With both receivers off, every `IER` at 0 and
nothing pending, asserted or live, the machine is quiet; each operation that enables nothing keeps it so, and a poll of a
quiet machine finds no offer. -/

namespace Sys2Proof.Machine

/-! Quiet devices. -/

/-- The receiver is off and no condition is pending. -/
structure SioChannel.Quiet (ch : SioChannel) : Prop where
  rxOff : ch.rxOn = false
  rxa : ch.pendRxa = false
  err : ch.pendErr = false

/-- No source is enabled or pending. -/
structure Uart.Quiet (u : Uart) : Prop where
  ier : u.ier = 0#8
  rx : u.pendRx = false
  thre : u.pendThre = false
  ms : u.pendMs = false

/-- `interruptsOff` as a structure. -/
structure Quiet (s : State) : Prop where
  sioA : s.sioA.Quiet
  sioB : s.sioB.Quiet
  latch : s.sioAsserted = false
  live : s.live = none
  uarts : ∀ n ∈ s.uarts, n.uart.Quiet

theorem SioChannel.quiet_iff (ch : SioChannel) : ch.Quiet ↔ ch.rxOn = false ∧ ch.pendAny = false := by
  constructor
  · intro h
    exact ⟨h.rxOff, by simp [SioChannel.pendAny, h.rxa, h.err]⟩
  · rintro ⟨hoff, hpend⟩
    obtain ⟨hrxa, herr⟩ := Bool.or_eq_false_iff.1 hpend
    exact ⟨hoff, hrxa, herr⟩

theorem Uart.quiet_iff (u : Uart) : u.Quiet ↔ u.ier = 0#8 ∧ u.pendAny = false := by
  constructor
  · intro h
    exact ⟨h.ier, by simp [Uart.pendAny, h.rx, h.thre, h.ms]⟩
  · rintro ⟨hier, hpend⟩
    obtain ⟨hpend', hms⟩ := Bool.or_eq_false_iff.1 hpend
    obtain ⟨hrx, hthre⟩ := Bool.or_eq_false_iff.1 hpend'
    exact ⟨hier, hrx, hthre, hms⟩

theorem interruptsOff_iff (s : State) : interruptsOff s = true ↔ Quiet s := by
  constructor
  · intro h
    simp only [interruptsOff, Bool.and_eq_true, Bool.not_eq_true', Option.isNone_iff_eq_none, List.all_eq_true,
      beq_iff_eq] at h
    obtain ⟨⟨⟨⟨⟨⟨hoffA, hoffB⟩, hpendA⟩, hpendB⟩, hlatch⟩, hlive⟩, huarts⟩ := h
    exact ⟨(SioChannel.quiet_iff _).2 ⟨hoffA, hpendA⟩, (SioChannel.quiet_iff _).2 ⟨hoffB, hpendB⟩, hlatch, hlive,
      fun n hn => (Uart.quiet_iff _).2 (huarts n hn)⟩
  · intro h
    obtain ⟨hoffA, hpendA⟩ := (SioChannel.quiet_iff _).1 h.sioA
    obtain ⟨hoffB, hpendB⟩ := (SioChannel.quiet_iff _).1 h.sioB
    simp only [interruptsOff, Bool.and_eq_true, Bool.not_eq_true', Option.isNone_iff_eq_none, List.all_eq_true,
      beq_iff_eq]
    exact ⟨⟨⟨⟨⟨⟨hoffA, hoffB⟩, hpendA⟩, hpendB⟩, h.latch⟩, h.live⟩, fun n hn => (Uart.quiet_iff _).1 (h.uarts n hn)⟩

/-! What keeps the machine quiet, one rule per field the property speaks of. -/

section
variable {s : State} (h : Quiet s)
include h

/-- The fields the property does not mention may change freely. -/
theorem Quiet.frame (flat rom ram : Memory) (bsel rb win sioVec : Byte) (db : DiskBridge) (sniff : Sniff)
    (changed : Bool) (traceMask : Byte) (lineA lineB : HostLine) (dev : BlockDevice) (result : Option Byte)
    (events : List Event) (draws : Nat) :
    Quiet { s with
      flat := flat, rom := rom, ram := ram, bsel := bsel, rb := rb, win := win, sioVec := sioVec, db := db
      sniff := sniff, changed := changed, traceMask := traceMask, lineA := lineA, lineB := lineB, dev := dev
      result := result, events := events, draws := draws } :=
  ⟨h.sioA, h.sioB, h.latch, h.live, h.uarts⟩

theorem Quiet.chan (c : Channel) : (s.chan c).Quiet := by
  cases c
  · exact h.sioA
  · exact h.sioB

theorem Quiet.setChan (c : Channel) {ch : SioChannel} (hch : ch.Quiet) : Quiet (s.setChan c ch) := by
  cases c
  · exact ⟨hch, h.sioB, h.latch, h.live, h.uarts⟩
  · exact ⟨h.sioA, hch, h.latch, h.live, h.uarts⟩

theorem Quiet.setSioLine (c : Channel) (l : HostLine) : Quiet (s.setSioLine c l) := by
  cases c
  · exact h.frame ..
  · exact h.frame ..

theorem Quiet.setUart (i : Nat) {n : UartUnit} (hn : n.uart.Quiet) : Quiet (s.setUart i n) := by
  refine ⟨h.sioA, h.sioB, h.latch, h.live, fun m hm => ?_⟩
  rcases List.mem_or_eq_of_mem_set hm with hm | rfl
  · exact h.uarts m hm
  · exact hn

theorem Quiet.forUarts {f : UartUnit → UartUnit × Bool} (hf : ∀ n, n.uart.Quiet → (f n).1.uart.Quiet) :
    Quiet (forUarts f s) := by
  refine ⟨h.sioA, h.sioB, h.latch, h.live, fun m hm => ?_⟩
  obtain ⟨n, hn, rfl⟩ := List.mem_map.1 hm
  exact hf n (h.uarts n hn)

end

/-! The serial controller. -/

section
variable {ch : SioChannel} (h : ch.Quiet)
include h

theorem SioChannel.Quiet.setWr0 (d : Byte) : (ch.setWr 0#3 d).Quiet := by
  have hwr3 : (ch.setWr 0#3 d).wr[3] = ch.wr[3] := ch.setWr_wr_get 0#3 d 3
  exact ⟨by rw [SioChannel.rxOn, hwr3]; exact h.rxOff, h.rxa, h.err⟩

theorem SioChannel.Quiet.setPtr (p : BitVec 3) : ({ ch with ptr := p } : SioChannel).Quiet := ⟨h.rxOff, h.rxa, h.err⟩

theorem SioChannel.Quiet.rearm : ({ ch with arm := true } : SioChannel).Quiet := ⟨h.rxOff, h.rxa, h.err⟩

theorem SioChannel.Quiet.errorReset : ({ ch with ovr := false, pendErr := false } : SioChannel).Quiet :=
  ⟨h.rxOff, h.rxa, rfl⟩

theorem SioChannel.Quiet.popped (r : List Byte) : (ch.popped r).Quiet :=
  ⟨h.rxOff, by rw [SioChannel.popped, h.rxa, Bool.false_and], h.err⟩

end

theorem SioChannel.quiet_reset : SioChannel.reset.Quiet := ⟨rfl, rfl, rfl⟩

section
variable {s : State} (h : Quiet s)
include h

/-- With the receiver off, a tick's byte is taken from the line and dropped. -/
theorem Quiet.sioTickChan (c : Channel) : Quiet (sioTickChan c s) := by
  unfold Machine.sioTickChan
  split
  · have htaken := h.setSioLine c (s.sioLine c).consumed
    rw [sioPush_of_rxOff _ (htaken.chan c).rxOff]
    exact htaken
  · exact h

theorem Quiet.sioPop (c : Channel) : Quiet (sioPop c s) := by
  rcases sioPop_cases c s with ⟨-, heq⟩ | ⟨b, r, -, heq⟩ <;> rw [heq]
  · exact h.frame ..
  · exact (h.setChan c ((h.chan c).popped r)).frame ..

/-- A re-evaluation with nothing pending leaves the latch clear. -/
theorem Quiet.sioReti : Quiet (sioReti s) := by
  have hpend := ((SioChannel.quiet_iff _).1 h.sioA).2
  rw [sioReti_eq, hpend]
  exact ⟨h.sioA, h.sioB, rfl, h.live, h.uarts⟩

end

/-! The UARTs. -/

theorem Uart.quiet_reset (msr : Byte) : (Uart.reset msr).Quiet := ⟨rfl, rfl, rfl, rfl⟩

/-- With `IER` at 0, a tick raises nothing. -/
theorem uartTick_quiet {n : UartUnit} (hn : n.uart.Quiet) : (uartTick n).1.uart.Quiet := by
  have hload : (uartLoad n).uart.Quiet := by
    unfold uartLoad
    split
    · exact ⟨hn.ier, hn.rx, hn.thre, hn.ms⟩
    · exact hn
  rw [uartTick_eq]
  exact ⟨hload.ier, by simp [hload.ier, hload.rx], by simp [hload.ier, hload.thre], hload.ms⟩

/-- With `IER` at 0, a pulse raises nothing. -/
theorem uartPulse_quiet {n : UartUnit} (hn : n.uart.Quiet) : (uartPulse n).1.uart.Quiet := by
  rw [uartPulse_eq]
  exact ⟨hn.ier, hn.rx, hn.thre, by simp [hn.ier, hn.ms]⟩

/-! The arbiter and the detector. -/

section
variable {s : State} (h : Quiet s)
include h

theorem Quiet.offer (src : Source) : offer s src = none := by
  cases src with
  | sio => rw [offer_sio, h.latch]; rfl
  | uart i =>
    simp only [Machine.offer]
    split
    next n k hn _ => rw [((Uart.quiet_iff _).1 (h.uarts n (List.mem_of_getElem? hn))).2]; rfl
    · rfl

/-- A poll of a quiet machine clears `CHANGED` only. -/
theorem Quiet.poll_eq : poll s = { s with changed := false } :=
  poll_of_silent (.inr (firstOffer_eq_none fun src _ => h.offer src))

/-- A return in a quiet machine releases nothing and injects nothing. -/
theorem Quiet.onReti_eq : onReti s = { s with changed := false } := by
  have hlive : s.live ≠ some .sio := by simp [h.live]
  have hsame : { s with live := none } = s := by rw [← h.live]
  rw [onReti_of_not_sio hlive, hsame, h.poll_eq]

/-- A step of the detector in a quiet machine moves it, and adds one RETI at most. -/
theorem Quiet.sniffStep (b : Byte) : Quiet (sniffStep b s) ∧ injectCount (sniffStep b s) = injectCount s := by
  rcases sniffStep_cases b s with ⟨q, heq⟩ | ⟨-, -, heq⟩ <;> rw [heq]
  · exact ⟨h.frame .., rfl⟩
  · have hret : Quiet ({ s with sniff := .idle }.emit .reti) := h.frame ..
    rw [hret.onReti_eq]
    exact ⟨hret.frame .., by simp [injectCount, Event.isInject]⟩

end

/-! The outcomes that stay quiet. -/

/-- Where the outcome is a next state, it is quiet. -/
def StaysQuiet (o : Host.Outcome State Fault Refusal) : Prop := ∀ t, o = .next t → Quiet t

theorem StaysQuiet.next {t : State} (h : Quiet t) : StaysQuiet (.next t) := by
  rintro _ ⟨⟩
  exact h

section
variable {s : State} (h : Quiet s)
include h

theorem readAt_staysQuiet (l : Loc) : StaysQuiet (readAt l s) := by
  intro t ht
  obtain ⟨-, rfl⟩ := readAt_inv ht
  exact h.frame ..

theorem fetchAt_staysQuiet (l : Loc) {t : State} (ht : fetchAt l s = .next t) :
    Quiet t ∧ injectCount t = injectCount s := by
  obtain ⟨-, rfl⟩ := fetchAt_inv ht
  exact (show Quiet (s.ret (s.readLoc l)) from h.frame ..).sniffStep _

theorem writeAt_staysQuiet (l : Loc) (d : Byte) : StaysQuiet (writeAt l d s) := by
  intro t ht
  obtain ⟨-, ⟨-, rfl⟩ | ⟨-, rfl⟩⟩ := writeAt_inv ht
  · exact h
  · rw [State.writeLoc_frame]
    exact h.frame ..

/-- A WR0 write whose command stays quiet stays quiet. -/
theorem wr0Write_staysQuiet (c : Channel) (crc : BitVec 2) (cmd ptr : BitVec 3) {act : State → State}
    (hact : ∀ u, Quiet u → Quiet (act u)) : StaysQuiet (wr0Write c crc cmd ptr act s) := by
  have hdone := hact _ (h.setChan c ((h.chan c).setWr0 (wr0Byte crc cmd ptr)))
  exact .next (hdone.setChan c ((hdone.chan c).setPtr ptr))

theorem uartIn_staysQuiet (i : Nat) (value : Uart → Byte) {after : Uart → Uart} (touch : Uart → Bool)
    (hafter : ∀ u, u.Quiet → (after u).Quiet) : StaysQuiet (uartIn i s value after touch) := by
  intro t ht
  obtain ⟨n, hn, rfl⟩ := uartIn_inv ht
  exact (h.setUart i (n := { n with uart := after n.uart })
    (hafter _ (h.uarts n (List.mem_of_getElem? hn)))).frame ..

theorem uartOut_staysQuiet (i : Nat) {after : Uart → Uart} (touch : Bool)
    (hafter : ∀ u, u.Quiet → (after u).Quiet) : StaysQuiet (uartOut i s after touch) := by
  intro t ht
  obtain ⟨n, hn, rfl⟩ := uartOut_inv ht
  exact (h.setUart i (n := { n with uart := after n.uart })
    (hafter _ (h.uarts n (List.mem_of_getElem? hn)))).frame ..

theorem execOutUartThr_staysQuiet (i : Nat) (d : Byte) : StaysQuiet (execOutUartThr i d s) := by
  unfold execOutUartThr
  split
  · rintro _ ⟨⟩
  next n hn =>
    have hquiet := h.uarts n (List.mem_of_getElem? hn)
    exact .next ((h.setUart i (n := { uart := { n.uart with pendThre := false }, line := n.line.send d })
      ⟨hquiet.ier, hquiet.rx, rfl, hquiet.ms⟩).frame ..)

theorem execEvtTick_staysQuiet : StaysQuiet (execEvtTick s) := by
  unfold execEvtTick
  split
  · rintro _ ⟨⟩
  · exact .next (((h.sioTickChan .a).sioTickChan .b).forUarts fun _ => uartTick_quiet)

theorem execEvtPulse_staysQuiet : StaysQuiet (execEvtPulse s) := by
  unfold execEvtPulse
  split
  · exact .next (h.forUarts fun _ => uartPulse_quiet)
  · exact .next h

/-- An operation outside the arbiter's reach that enables no interrupt stays quiet. -/
theorem exec_staysQuiet {i : Instr} (hreach : reachesArbiter i = false) (henable : enablesInterrupts i = false) :
    StaysQuiet (exec i s) := by
  cases i with
  | mfetchLo | mfetchHi | evtPoll | evtReset | evtCpuReset => cases hreach
  | outSioWrn | outUartIer => cases henable
  | mrdLo | mrdHi => exact readAt_staysQuiet h _
  | mwrLo | mwrHi => exact writeAt_staysQuiet h _ _
  | outBsel | outRb | outWin | inBsel | inRb | inWin | outTrace | inTrace | inUnmapped => exact .next (h.frame ..)
  | outUnmapped => exact .next h
  | inSioData c => exact .next (h.sioPop c)
  | outSioData c d => exact .next ((h.setSioLine c _).frame ..)
  | inSioCtrl c =>
    intro t ht
    obtain ⟨result, draws, rfl⟩ := exec_inSioCtrl_inv ht
    exact (h.setChan c ((h.chan c).setPtr 0#3)).frame ..
  | outSioCmd0 | outSioCmd1 | outSioCmd2 | outSioCmd5 => exact wr0Write_staysQuiet h _ _ _ _ fun _ hu => hu
  | outSioCmd3 c => exact wr0Write_staysQuiet h _ _ _ _ fun _ hu => hu.setChan c SioChannel.quiet_reset
  | outSioCmd4 c => exact wr0Write_staysQuiet h _ _ _ _ fun _ hu => hu.setChan c (hu.chan c).rearm
  | outSioCmd6 c => exact wr0Write_staysQuiet h _ _ _ _ fun _ hu => hu.setChan c (hu.chan c).errorReset
  | outSioCmd7 c =>
    refine wr0Write_staysQuiet h _ _ _ _ fun _ hu => ?_
    cases c
    · exact hu.sioReti
    · exact hu
  | inUartDll | inUartIer | inUartDlm | inUartLcr | inUartMcr | inUartScr =>
    unfold exec
    exact uartIn_staysQuiet h _ _ _ fun _ hu => hu
  | inUartRbr i =>
    rw [exec_inUartRbr]
    exact uartIn_staysQuiet h i _ _ fun u hu => ⟨hu.ier, rfl, hu.thre, hu.ms⟩
  | inUartIir i =>
    rw [exec_inUartIir]
    refine uartIn_staysQuiet h i _ _ fun u hu => ?_
    split
    · exact ⟨hu.ier, hu.rx, rfl, hu.ms⟩
    · exact hu
  | inUartLsr i =>
    rw [exec_inUartLsr]
    exact uartIn_staysQuiet h i _ _ fun u hu => ⟨hu.ier, hu.rx, hu.thre, hu.ms⟩
  | inUartMsr i =>
    rw [exec_inUartMsr]
    exact uartIn_staysQuiet h i _ _ fun u hu => ⟨hu.ier, hu.rx, hu.thre, rfl⟩
  | outUartThr i d => exact execOutUartThr_staysQuiet h i d
  | outUartDll | outUartDlm | outUartFcr | outUartLcr | outUartMcr | outUartScr | outUartLsrMsr =>
    unfold exec
    exact uartOut_staysQuiet h _ _ fun u hu => ⟨hu.ier, hu.rx, hu.thre, hu.ms⟩
  | inDbDlo | inDbDhi | inDbCtl | inDbDir | outDbDlo | outDbDhi | outDbDir => exact .next (h.frame ..)
  | outDbCtl d =>
    rw [exec_outDbCtl, controlWrite_frame]
    exact .next (h.frame ..)
  | evtTick => exact execEvtTick_staysQuiet h
  | evtPulse => exact execEvtPulse_staysQuiet h

end

/-- A power-on reset leaves the machine quiet, whatever it was before. -/
theorem quiet_resetRegisters (s : State) : Quiet (resetRegisters s) := by
  refine ⟨SioChannel.quiet_reset, SioChannel.quiet_reset, rfl, rfl, fun n hn => ?_⟩
  obtain ⟨m, -, rfl⟩ := List.mem_map.1 hn
  exact Uart.quiet_reset _

/-- An operation that enables no interrupt stays quiet and injects nothing. -/
theorem Quiet.exec {s t : State} {i : Instr} (h : Quiet s) (henable : enablesInterrupts i = false)
    (hexec : exec i s = .next t) : Quiet t ∧ injectCount t = injectCount s := by
  cases hreach : reachesArbiter i with
  | false =>
    exact ⟨exec_staysQuiet h hreach henable t hexec, injectCount_of_arbiter (exec_keepsArbiter i s hreach t hexec)⟩
  | true =>
    cases i with
    | mfetchLo | mfetchHi => exact fetchAt_staysQuiet h _ hexec
    | evtPoll =>
      cases hexec
      rw [h.poll_eq]
      exact ⟨h.frame .., rfl⟩
    | evtReset =>
      cases hexec
      exact ⟨(quiet_resetRegisters s).frame .., by simp [injectCount, resetRegisters, Event.isInject]⟩
    | evtCpuReset =>
      rw [exec_evtCpuReset] at hexec
      cases hexec
      refine ⟨?_, ?_⟩
      · split <;> exact h.frame ..
      · split <;> simp [injectCount, resetBanks, Event.isInject]
    | _ => cases hreach

/-! Ticks, pulses and polls emit nothing from a quiet machine. -/

@[simp] theorem sioTickChan_events (c : Channel) (s : State) : (sioTickChan c s).events = s.events := by
  rw [sioTickChan_frame]
  cases c <;> rfl

/-- A tick emits no event. -/
theorem exec_evtTick_events {s t : State} (h : exec .evtTick s = .next t) : t.events = s.events := by
  change execEvtTick s = _ at h
  unfold execEvtTick at h
  split at h
  · cases h
  · cases h
    simp [forUarts, sioTick]

/-- A pulse emits no event. -/
theorem exec_evtPulse_events {s t : State} (h : exec .evtPulse s = .next t) : t.events = s.events := by
  cases h
  split <;> rfl

/-- Settles O50: a reset makes the machine quiet, the operations keep it so, and a quiet poll has nothing to emit. -/
theorem noInterruptBeforeFirmwareEnablesOne : Obligations.NoInterruptBeforeFirmwareEnablesOne := by
  simp only [Obligations.NoInterruptBeforeFirmwareEnablesOne, interruptsOff_iff]
  refine ⟨fun s t hexec => ?reset, fun s t i h henable hexec => h.exec henable hexec, fun s t i h hi hexec => ?silent⟩
  case reset =>
    cases hexec
    exact (quiet_resetRegisters s).frame ..
  case silent =>
    rcases hi with rfl | rfl | rfl
    · exact ⟨(h.exec rfl hexec).1, exec_evtTick_events hexec⟩
    · exact ⟨(h.exec rfl hexec).1, exec_evtPulse_events hexec⟩
    · refine ⟨(h.exec rfl hexec).1, ?_⟩
      cases hexec
      rw [h.poll_eq]

end Sys2Proof.Machine
end

section
/-! Launch (70_reset_and_hazards.md R451, R455; 00_scope.md R10, R11). The launch storage is filled cell by cell, the
image last, so an image that fits reads back at its offsets; a reset of the launch state then meets the invariant. -/

namespace Sys2Proof.Machine

/-! Reading back the cells of an image. -/

/-- A cell inside the array is stored; any other is left out. -/
def Memory.fill (size : Nat) (m : Memory) (l : List Host.Cell) : Memory :=
  l.foldl (fun m c => if c.1 < size then m.write c.1 c.2 else m) m

theorem Memory.ofCells_append (size : Nat) (l image : List Host.Cell) :
    Memory.ofCells size (l ++ image) = Memory.fill size (Memory.ofCells size l) image := List.foldl_append

theorem Memory.ofCells_wf (size : Nat) (l : List Host.Cell) : (Memory.ofCells size l).wf size = true :=
  Memory.wf_foldl size l [] (Memory.wf_nil size)

section
variable {size k : Nat}

theorem Memory.fill_imageCells_cons (m : Memory) (b : Byte) (r : List Byte) (hk : k < size) :
    Memory.fill size m (imageCells k (b :: r)) = Memory.fill size (m.write k b) (imageCells (k + 1) r) := by
  simp only [Memory.fill, imageCells, List.foldl_cons, hk, if_true]

/-- Filling in an image from offset `k` leaves the offsets below `k` alone. -/
theorem Memory.read_fill_below (image : List Byte) (m : Memory) (hfit : k + image.length ≤ size) {j : Nat} (hj : j < k) :
    Memory.read (Memory.fill size m (imageCells k image)) j = Memory.read m j := by
  induction image generalizing k m with
  | nil => rfl
  | cons b r ih =>
    rw [List.length_cons] at hfit
    rw [Memory.fill_imageCells_cons m b r (by omega), ih _ (by omega) (by omega),
      Memory.read_write_other m k j b (by omega)]

/-- Every byte of an image that fits reads back at its offset. -/
theorem Memory.read_fill_image (image : List Byte) (m : Memory) (hm : m.wf size = true)
    (hfit : k + image.length ≤ size) {j : Nat} (hj : j < image.length) :
    Memory.read (Memory.fill size m (imageCells k image)) (k + j) = image[j] := by
  induction image generalizing k m j with
  | nil => cases hj
  | cons b r ih =>
    rw [List.length_cons] at hfit hj
    have hk : k < size := by omega
    rw [Memory.fill_imageCells_cons m b r hk]
    cases j with
    | zero =>
      rw [Memory.read_fill_below r _ (by omega) (by omega)]
      exact Memory.read_write_same size m k b hm
    | succ j =>
      have hrest := ih (m.write k b) (Memory.wf_write size m k b hk hm) (k := k + 1) (by omega)
        (Nat.lt_of_succ_lt_succ hj)
      rw [Nat.add_right_comm] at hrest
      exact hrest

end

/-! The launch state. -/

/-- The array the image is loaded into (70_reset_and_hazards.md R455). -/
def imageArray (c : Config) : StoreArray := if c.scheme = .flat then .flat else .rom

theorem arraySize_imageArray (c : Config) : arraySize c (imageArray c) = romCapacity c := by
  unfold imageArray romCapacity
  cases c.scheme <;> rfl

/-- The image's array holds what the launch listed for it with the image filled in over it. -/
theorem launchState_mem_imageArray (L : Launch) :
    ∃ m : Memory, m.wf (romCapacity L.cfg) = true ∧
      (launchState L).mem (imageArray L.cfg) = Memory.fill (romCapacity L.cfg) m (imageCells 0 L.image) := by
  rw [← arraySize_imageArray]
  unfold imageArray
  cases hs : L.cfg.scheme with
  | flat => exact ⟨_, Memory.ofCells_wf _ L.flat, by simp [launchState, imageFor, hs, Memory.ofCells_append]⟩
  | dual => exact ⟨_, Memory.ofCells_wf _ L.rom, by simp [launchState, imageFor, hs, Memory.ofCells_append]⟩

/-- A valid image size fits its array. -/
theorem romImageSize_le {c : Config} (h : configValid c = true) : c.romImageSize ≤ romCapacity c := by
  obtain ⟨-, -, -, -, -, -, hsize⟩ := configValid_parts h
  exact of_decide_eq_true (Bool.and_eq_true_iff.1 hsize).2

/-- The launch units are one per configured UART, with the registers at reset. -/
theorem uartUnits_spec (msr : Byte) (us : List UartConfig) (ls : List HostLine) :
    (uartUnits msr us ls).length = us.length ∧ ∀ n ∈ uartUnits msr us ls, n.uart = Uart.reset msr := by
  induction us generalizing ls with
  | nil => exact ⟨rfl, nofun⟩
  | cons u us ih =>
    cases ls with
    | nil =>
      obtain ⟨hlen, hreset⟩ := ih []
      exact ⟨congrArg (· + 1) hlen, List.forall_mem_cons.2 ⟨rfl, hreset⟩⟩
    | cons l ls =>
      obtain ⟨hlen, hreset⟩ := ih ls
      exact ⟨congrArg (· + 1) hlen, List.forall_mem_cons.2 ⟨rfl, hreset⟩⟩

/-- The launch state of a valid configuration meets the invariant. -/
theorem inv_launchState {L : Launch} (h : configValid L.cfg = true) : Inv (launchState L) := by
  obtain ⟨hlen, hreset⟩ := uartUnits_spec L.cfg.uartMsrReset L.cfg.uarts L.uartLines
  refine ⟨h, Memory.ofCells_wf _ _, Memory.ofCells_wf _ _, Memory.ofCells_wf _ _, hlen, SioChannel.good_reset,
    SioChannel.good_reset, fun n hn => ?_, rfl, rfl⟩
  rw [hreset n hn]
  exact Uart.good_reset _

/-- A launch with a valid configuration and image size begins in the reset of its launch state. -/
theorem launch_of_valid {L : Launch} (h : configValid L.cfg = true) (hsize : L.image.length = L.cfg.romImageSize) :
    launch L = .next ((resetRegisters (launchState L)).emit .cpuReset) := by
  simp [launch, h, hsize]

/-- Settles O51: the two refusals, then the reset of the launch state, which keeps the invariant and storage. -/
theorem launchLoadsTheImageOrBeginsNoRun : Obligations.LaunchLoadsTheImageOrBeginsNoRun := by
  intro L
  refine ⟨fun hinvalid => by simp [launch, hinvalid], fun hvalid hsize => by simp [launch, hvalid, hsize],
    fun hvalid hsize => ?_⟩
  refine ⟨_, launch_of_valid hvalid hsize, exec_evtReset _, (inv_launchState hvalid).resetRegisters.frame ..,
    fun k hk => ?_⟩
  obtain ⟨m, hm, hmem⟩ := launchState_mem_imageArray L
  have hfit : 0 + L.image.length ≤ romCapacity L.cfg := by
    rw [Nat.zero_add, hsize]
    exact romImageSize_le hvalid
  change Memory.read ((launchState L).mem (imageArray L.cfg)) k = _
  have hread := Memory.read_fill_image L.image m hm hfit hk
  rw [Nat.zero_add] at hread
  rw [hmem, hread]

end Sys2Proof.Machine
end
